-- ==== Sys2Proof/Word.lean ====
section
/-! DEFINITION. The words of the core's interface. Inside the core every value is a mathematical
integer (R13); only what crosses the command port, and the STATUS register, is a word of bits. -/

namespace Sys2Proof

/-- A command word: 32 bits, bit 0 the least significant (R63, R80). -/
abbrev CommandWord := BitVec 32

/-- A response word: 64 bits (R86). -/
abbrev ResponseWord := BitVec 64

/-- The STATUS register: 16 bits (R32). -/
abbrev StatusWord := BitVec 16

end Sys2Proof
end

