-- ==== Sys2Proof/Syntax.lean ====
section
/-! DEFINITION. The five commands of R82, one constructor per row of the opcode table, and the lines of
the assembler notation of R98. Operands are the integers R81 assembles from the command word. -/

namespace Sys2Proof

/-- A command with its operand. -/
inductive Instr where
  /-- `OPEN m`: `m` is the MODE field, 0 to 3 (R84, R230). -/
  | openStream (m : Nat)
  /-- `ENC v`: `pcm` is a signed 16-bit PCM sample (R81, R231). -/
  | enc (pcm : Int)
  /-- `DEC o`: `octet` is a codeword octet, 0 to 255 (R81, R233). -/
  | dec (octet : Nat)
  /-- `CLOSE` (R235). -/
  | close
  /-- `STATUS` (R236). -/
  | status
  deriving DecidableEq, Repr

/-- A line of a program (R98): a command, or `.word` with any word, for reserved and malformed encodings. -/
inductive AsmLine where
  | instr (i : Instr)
  | word (w : CommandWord)
  deriving DecidableEq, Repr

end Sys2Proof
end

