-- ==== Sys2Proof/WellFormed.lean ====
section
/-! DEFINITION. The operand ranges of R81 and R98: exactly the operands a command word can carry. -/

namespace Sys2Proof

/-- The operand is one the command word's field can hold (R81): a 2-bit MODE, a signed 16-bit sample,
an 8-bit octet. `OPEN 0` is well formed, and is rejected when it runs (R84). -/
def Instr.wf : Instr → Bool
  | .openStream m => decide (m ≤ 3)
  | .enc pcm => decide (-32768 ≤ pcm ∧ pcm ≤ 32767)
  | .dec octet => decide (octet ≤ 255)
  | .close => true
  | .status => true

end Sys2Proof
end

