-- ==== Sys2Proof/Decode.lean ====
section
/-! DEFINITION. The decoder (R80 to R85), total on every command word, and the encoder written from the
same field layout. The interface is word-parallel, so no byte order arises (R63, R66). -/

namespace Sys2Proof

/-- `OP`, bits [3:0] (R80). -/
def CommandWord.op (w : CommandWord) : Nat := (w.extractLsb' 0 4).toNat

/-- `MODE`, bits [5:4], zero-extended (R80, R81). -/
def CommandWord.modeField (w : CommandWord) : Nat := (w.extractLsb' 4 2).toNat

/-- `RSV`, bits [15:6] (R80). -/
def CommandWord.rsv (w : CommandWord) : Nat := (w.extractLsb' 6 10).toNat

/-- `DATA`, bits [31:16], as an unsigned field (R80). -/
def CommandWord.data (w : CommandWord) : Nat := (w.extractLsb' 16 16).toNat

/-- The PCM operand: bits [31:16], sign-extended from 16 bits (R81). -/
def CommandWord.pcm (w : CommandWord) : Int := (w.extractLsb' 16 16).toInt

/-- The octet operand: bits [23:16], zero-extended (R81). -/
def CommandWord.octet (w : CommandWord) : Nat := (w.extractLsb' 16 8).toNat

/-- Bits [31:24], which must be 0 in DEC (R83). -/
def CommandWord.dataHigh (w : CommandWord) : Nat := (w.extractLsb' 24 8).toNat

/-- The command a word encodes, or `none`: the word is then an IllegalCommand (R83, R85, R262). `RSV` must
be 0; `MODE` must be 0 in every command but OPEN; `DATA` must be 0 in OPEN, CLOSE and STATUS; bits
[31:24] must be 0 in DEC; opcodes 0x0 and 0x6 to 0xF are reserved. -/
def decode (w : CommandWord) : Option Instr :=
  if w.rsv ≠ 0 then none
  else if w.op = 1 then if w.data = 0 then some (.openStream w.modeField) else none
  else if w.modeField ≠ 0 then none
  else if w.op = 2 then some (.enc w.pcm)
  else if w.op = 3 then if w.dataHigh = 0 then some (.dec w.octet) else none
  else if w.op = 4 then if w.data = 0 then some .close else none
  else if w.op = 5 then if w.data = 0 then some .status else none
  else none

/-- A command word from its four fields (R80), each taken in the field's width. -/
def commandWord (data : BitVec 16) (mode : BitVec 2) (op : BitVec 4) : CommandWord :=
  data ++ 0#10 ++ mode ++ op

/-- The word of a command (R82, R98). -/
def encode : Instr → CommandWord
  | .openStream m => commandWord 0#16 (BitVec.ofNat 2 m) 1#4
  | .enc pcm => commandWord (BitVec.ofInt 16 pcm) 0#2 2#4
  | .dec octet => commandWord (0#8 ++ BitVec.ofNat 8 octet) 0#2 3#4
  | .close => commandWord 0#16 0#2 4#4
  | .status => commandWord 0#16 0#2 5#4

/-- The word of a program line (R98): one line is one command word, nothing expands to more. -/
def assemble : AsmLine → CommandWord
  | .instr i => encode i
  | .word w => w

/-- The command word the host builds from a row of the opcode table: its `nbits` bits as the table numbers
them, every bit above them 0. A command is one whole 32-bit word (R66, R80). -/
def tableWord (nbits w : Nat) : CommandWord := BitVec.ofNat 32 (w % 2 ^ nbits)

/-- The instruction the decoder reads from that word. -/
def decodeTableWord (nbits w : Nat) : Option Instr := decode (tableWord nbits w)

end Sys2Proof
end

