-- ==== Sys2Proof/Config.lean ====
section
/-! DEFINITION. What the spec leaves open, as constants without a body. The core has one such point:
what a DSP field contains while it "holds no value" (R23, R235, R291, U10 "any value"). -/

namespace Sys2Proof

/-- The content of field `k` of the DSP state after the `n`-th event that leaves it without a value
(CLOSE, or a power-on reset): a free value, which nothing constrains. Log entry 2. -/
opaque Config.noValue : Nat → Nat → Int

/-- What every DSP field of `State.reset` contains. R38 says the field holds no value, and R291 allows a
model any value there. DESIGN CHOICE 0, log entry 1, unsafe. -/
def Config.resetContent : Int := 0

end Sys2Proof
end

