-- ==== Sys2Proof/Machine/State.lean ====
section
/-! DEFINITION. The state of the core, field by field as 10_state.md names it (R20, R24, R30 to R32), the
command port, and the machine right after power-on reset (R38). -/

namespace Sys2Proof.Machine

/-- The three operating points (R3). -/
inductive Mode where
  | mode1
  | mode2
  | mode3
  deriving DecidableEq, Repr

/-- The direction a stream is locked to (R32 `DIR`, R238). -/
inductive Direction where
  | encode
  | decode
  deriving DecidableEq, Repr

/-- The lifecycle state (R32 `LC`) with what STATUS shows of an open stream: its mode and its direction,
`none` while no data command has locked it. `MODE` and `DIR` exist only while streaming, because both read
0 in `Idle` and after CLOSE (R230, R235), and `MODE = 0` never occurs while streaming (R33). -/
inductive Lifecycle where
  | idle
  | streaming (mode : Mode) (dir : Option Direction)
  | closed
  deriving DecidableEq, Repr

/-- The errors of R261. The code 0, OK, is the absence of an error. -/
inductive Error where
  | illegalCommand
  | invalidConfig
  | invalidInput
  | invalidState
  | directionMismatch
  deriving DecidableEq, Repr

/-- The adaptive state of one band: the 26 integer fields of R24. Array elements are named fields: `b1` is
`b[1]`, `d0` is `d[0]`, the most recent difference. There is no `b[0]`. -/
structure Band where
  det : Int
  nb : Int
  a1 : Int
  a2 : Int
  b1 : Int
  b2 : Int
  b3 : Int
  b4 : Int
  b5 : Int
  b6 : Int
  d0 : Int
  d1 : Int
  d2 : Int
  d3 : Int
  d4 : Int
  d5 : Int
  d6 : Int
  r0 : Int
  r1 : Int
  r2 : Int
  p0 : Int
  p1 : Int
  p2 : Int
  sp : Int
  sz : Int
  s : Int
  deriving DecidableEq, Repr

/-- A shift register of `n` elements, the most recent first (R30, R31). Its length is part of the type. -/
structure ShiftReg (n : Nat) where
  taps : List Int
  size : taps.length = n
  deriving DecidableEq, Repr

/-- The analysis QMF state (R30): `x[0..23]` and the decimation toggle `phase`. -/
structure Analysis where
  x : ShiftReg 24
  phase : Bool
  deriving DecidableEq, Repr

/-- The synthesis QMF state (R31): the difference path `xd[0..11]` and the sum path `xs[0..11]`. -/
structure Synthesis where
  xd : ShiftReg 12
  xs : ShiftReg 12
  deriving DecidableEq, Repr

/-- The DSP state (R20, R23): the two band states `L` and `H` and the two QMF states. It holds a value, in
the sense of R23, exactly while the lifecycle state is `streaming`. -/
structure Dsp where
  low : Band
  high : Band
  analysis : Analysis
  synthesis : Synthesis
  deriving DecidableEq, Repr

/-- What can arrive at the core from outside: a command word at the command port (R4, R80), or the
power-on reset input (R290). -/
inductive PortInput where
  | command (w : CommandWord)
  | powerOnReset
  deriving DecidableEq, Repr

/-- The host's side of the command port: the inputs not yet taken, in arrival order (R21, R69), and the
response words returned so far, oldest first (R86). The model's own fields, log entry 3. -/
structure Port where
  inputs : List PortInput
  responses : List ResponseWord
  deriving DecidableEq, Repr

/-- The state of the machine. STATUS (R32) is stored as its fields `lc`, `errSeen` and `lastErr`;
`PHASE` is read from the analysis state, of which R32 calls it a copy; `Machine.statusWord` is the register. -/
structure State where
  lc : Lifecycle
  errSeen : Bool
  lastErr : Option Error
  dsp : Dsp
  port : Port
  /-- The model's own counter: how many times the DSP state was left without a value. `Config.noValue` is
  applied to it (log entry 2). -/
  drops : Nat
  deriving DecidableEq, Repr

/-- The reasons a step stops the machine: none. A rejected command is an ordinary step to a next state
(R264, R266), the DSP blocks are total (R260), and the core has no address space (R60). -/
inductive Fault where
  deriving DecidableEq, Repr

/-- The reasons a step gives no meaning. -/
inductive Refusal where
  /-- The instruction has no meaning in this model. Raised by no arm of `exec`; safe. -/
  | notModelled (mnemonic : String)
  deriving DecidableEq, Repr

/-- A shift register with the same content in every element. -/
def ShiftReg.const (n : Nat) (v : Int) : ShiftReg n := ⟨List.replicate n v, List.length_replicate⟩

/-- A band with the same content in every field. -/
def Band.const (v : Int) : Band :=
  { det := v, nb := v, a1 := v, a2 := v, b1 := v, b2 := v, b3 := v, b4 := v, b5 := v, b6 := v,
    d0 := v, d1 := v, d2 := v, d3 := v, d4 := v, d5 := v, d6 := v, r0 := v, r1 := v, r2 := v,
    p0 := v, p1 := v, p2 := v, sp := v, sz := v, s := v }

/-- The DSP state of `State.reset` (DESIGN CHOICE, log entry 1): R38 gives it no value, R291 allows any. -/
def Dsp.atReset : Dsp :=
  { low := Band.const Config.resetContent
    high := Band.const Config.resetContent
    analysis := { x := ShiftReg.const 24 Config.resetContent, phase := false }
    synthesis := { xd := ShiftReg.const 12 Config.resetContent, xs := ShiftReg.const 12 Config.resetContent } }

/-- The machine right after power-on reset (R38): STATUS = 0, no stream, and nothing at the port. -/
def State.reset : State :=
  { lc := .idle
    errSeen := false
    lastErr := none
    dsp := Dsp.atReset
    port := { inputs := [], responses := [] }
    drops := 0 }

end Sys2Proof.Machine
end

