-- ==== Sys2Proof/Machine/Arith.lean ====
section
/-! DEFINITION. The operators of R14 on exact integers (R13, R110 to R115). -/

namespace Sys2Proof.Machine

/-- `v >> n`: the floor of `v / 2^n` for every sign of `v` (R14, R113). -/
def asr (v : Int) (n : Nat) : Int := v / ((2 ^ n : Nat) : Int)

/-- `v << n`: exact multiplication by `2^n` (R14, R113). -/
def shl (v : Int) (n : Nat) : Int := v * ((2 ^ n : Nat) : Int)

/-- `v & (2^n - 1)` for the non-negative `v` it is used with (R14). -/
def lowBits (v : Int) (n : Nat) : Nat := (v % ((2 ^ n : Nat) : Int)).toNat

/-- `clamp(lo, hi, v)` (R14). -/
def clamp (lo hi v : Int) : Int := if v < lo then lo else if hi < v then hi else v

/-- `clamp16` (R14, R111). -/
def clamp16 (v : Int) : Int := clamp (-32768) 32767 v

/-- `clamp14`, whose range is that of a 15-bit two's-complement integer (R14, D3). -/
def clamp14 (v : Int) : Int := clamp (-16384) 16383 v

/-- `neg(v) = 1`: the sign bit, so zero counts as non-negative (R14, R115). -/
def neg (v : Int) : Bool := decide (v < 0)

/-- The magnitude the two quantizers use: of a negative `e` it is `-(e + 1)` (R141, R181, D10). -/
def magnitude (e : Int) : Int := if 0 ≤ e then e else -(e + 1)

/-- `Σ_{i = 0..n-1} f i` (R211, R214). -/
def sumTo : Nat → (Nat → Int) → Int
  | 0, _ => 0
  | n + 1, f => sumTo n f + f n

end Sys2Proof.Machine
end

