-- ==== Sys2Proof/Machine/Tables.lean ====
section
/-! DEFINITION. The constant table ROM (R35, R120 to R132) and the fixed parameters of R11. No index a rule
forms leaves its table (R134), so what the lookup answers outside one is never read. -/

namespace Sys2Proof.Machine

/-- `T[i]` for a table of integers (R14). -/
def tabInt (t : List Int) (i : Nat) : Int := t.getD i 0

/-- `T[i]` for a table of codes or indices (R14). -/
def tabNat (t : List Nat) (i : Nat) : Nat := t.getD i 0

/-- Low-band 4-bit inverse quantizer (R120). -/
def qm4 : List Int :=
  [0, -20456, -12896, -8968, -6288, -4240, -2584, -1200,
   20456, 12896, 8968, 6288, 4240, 2584, 1200, 0]

/-- Low-band 5-bit inverse quantizer (R121). -/
def qm5 : List Int :=
  [-280, -280, -23352, -17560, -14120, -11664, -9752, -8184,
   -6864, -5712, -4696, -3784, -2960, -2208, -1520, -880,
   23352, 17560, 14120, 11664, 9752, 8184, 6864, 5712,
   4696, 3784, 2960, 2208, 1520, 880, 280, -280]

/-- Low-band 6-bit inverse quantizer (R122). -/
def qm6 : List Int :=
  [-136, -136, -136, -136, -24808, -21904, -19008, -16704,
   -14984, -13512, -12280, -11192, -10232, -9360, -8576, -7856,
   -7192, -6576, -6000, -5456, -4944, -4464, -4008, -3576,
   -3168, -2776, -2400, -2032, -1688, -1360, -1040, -728,
   24808, 21904, 19008, 16704, 14984, 13512, 12280, 11192,
   10232, 9360, 8576, 7856, 7192, 6576, 6000, 5456,
   4944, 4464, 4008, 3576, 3168, 2776, 2400, 2032,
   1688, 1360, 1040, 728, 432, 136, -432, -136]

/-- High-band inverse quantizer (R123). -/
def qm2 : List Int := [-7408, -1616, 7408, 1616]

/-- Low-band log-scale adaptation deltas (R124). -/
def wl : List Int := [-60, -30, 58, 172, 334, 538, 1198, 3042]

/-- High-band log-scale adaptation deltas (R125). -/
def wh : List Int := [0, -214, 798]

/-- 4-bit low-band code to WL index (R126). -/
def rl42 : List Nat := [0, 7, 6, 5, 4, 3, 2, 1, 7, 6, 5, 4, 3, 2, 1, 0]

/-- 2-bit high-band code to WH index (R127). -/
def rh2 : List Nat := [2, 1, 2, 1]

/-- Log-to-linear base, shared by both bands (R128). -/
def ilb : List Int :=
  [2048, 2093, 2139, 2186, 2233, 2282, 2332, 2383,
   2435, 2489, 2543, 2599, 2656, 2714, 2774, 2834,
   2896, 2960, 3025, 3091, 3158, 3228, 3298, 3371,
   3444, 3520, 3597, 3676, 3756, 3838, 3922, 4008]

/-- The 24 QMF coefficients, scaled by 2^13 (R129). -/
def qmfH : List Int :=
  [3, -11, -11, 53, 12, -156, 32, 362,
   -210, -805, 951, 3876, 3876, 951, -805, -210,
   362, 32, -156, 12, 53, -11, -11, 3]

/-- Low-band decision levels divided by 8 (R130). -/
def q6 : List Int :=
  [0, 35, 72, 110, 150, 190, 233, 276,
   323, 370, 422, 473, 530, 587, 650, 714,
   786, 858, 940, 1023, 1121, 1219, 1339, 1458,
   1612, 1765, 1980, 2195, 2557, 2919, 0, 0]

/-- Magnitude class to 6-bit codeword, negative difference (R131). -/
def iln : List Nat :=
  [0, 63, 62, 31, 30, 29, 28, 27, 26, 25, 24, 23, 22, 21, 20, 19,
   18, 17, 16, 15, 14, 13, 12, 11, 10, 9, 8, 7, 6, 5, 4, 0]

/-- Magnitude class to 6-bit codeword, non-negative difference (R131). -/
def ilp : List Nat :=
  [0, 61, 60, 59, 58, 57, 56, 55, 54, 53, 52, 51, 50, 49, 48, 47,
   46, 45, 44, 43, 42, 41, 40, 39, 38, 37, 36, 35, 34, 33, 32, 0]

/-- Magnitude class to 2-bit codeword, negative difference (R132). -/
def ihn : List Nat := [0, 1, 0]

/-- Magnitude class to 2-bit codeword, non-negative difference (R132). -/
def ihp : List Nat := [0, 3, 2]

/-- Leak of `a1` and `b[i]`: 32640 / 2^15 (R11, D30). -/
def leak255 : Int := 32640

/-- `A2_LEAK`, the leak of `a2`: 32512 / 2^15 (R11, D7, C6). -/
def a2Leak : Int := 32512

/-- Leak of `nb`: 32512 / 2^15 (R11, R144, R183). -/
def nbLeak : Int := 32512

/-- Upper bound of `nb`, low band (R11, R27). -/
def nbMaxLow : Int := 18432

/-- Upper bound of `nb`, high band (R11, R27). -/
def nbMaxHigh : Int := 22528

end Sys2Proof.Machine
end

