-- ==== Sys2Proof/Machine/Operands.lean ====
section
/-! DEFINITION. How operands are read: the mode of OPEN, and the codeword octet, packed and unpacked by the
mode (R84, R93, R95, R232, R234). The fields of the command word itself are assembled in Decode.lean. -/

namespace Sys2Proof.Machine

/-- The width `w` of the low-band codeword (R11, R93). -/
def Mode.width : Mode → Nat
  | .mode1 => 6
  | .mode2 => 5
  | .mode3 => 4

/-- The mode the MODE operand of OPEN selects; `none` for an unsupported value (R84). -/
def Mode.ofField : Nat → Option Mode
  | 1 => some .mode1
  | 2 => some .mode2
  | 3 => some .mode3
  | _ => none

/-- The code of a mode in the MODE field (R32, R84). -/
def Mode.field : Mode → BitVec 2
  | .mode1 => 1
  | .mode2 => 2
  | .mode3 => 3

/-- PACK: `il | (ih << w)` (R93, R232). -/
def pack (il ih : Nat) (mode : Mode) : Nat := il ||| (ih <<< mode.width)

/-- The three fields of an octet (R95). -/
structure Unpacked where
  il : Nat
  ih : Nat
  pad : Nat
  deriving DecidableEq, Repr

/-- UNPACK (R95, R234). -/
def unpack (octet : Nat) (mode : Mode) : Unpacked :=
  { il := octet &&& (2 ^ mode.width - 1)
    ih := (octet >>> mode.width) &&& 3
    pad := octet >>> (mode.width + 2) }

end Sys2Proof.Machine
end

