-- ==== Sys2Proof/Machine/Flags.lean ====
section
/-! DEFINITION. The status bits. The core has no arithmetic flags (R22); its only status is the STATUS register
(R32, R33), and its error codes (R261). The response word (R86) is laid out here too. -/

namespace Sys2Proof.Machine

/-- The error code (R261). -/
def Error.code : Error → BitVec 3
  | .illegalCommand => 1
  | .invalidConfig => 2
  | .invalidInput => 3
  | .invalidState => 4
  | .directionMismatch => 5

/-- `LAST_ERR`: 0 after an accepted command (R237, R261). -/
def errCode : Option Error → BitVec 3
  | none => 0
  | some e => e.code

/-- `LC` (R32). -/
def Lifecycle.lcField : Lifecycle → BitVec 2
  | .idle => 0
  | .streaming _ _ => 1
  | .closed => 2

/-- `MODE` (R32): 0 while no stream is open. -/
def Lifecycle.modeField : Lifecycle → BitVec 2
  | .streaming mode _ => mode.field
  | _ => 0

/-- The code of a direction (R32). -/
def Direction.field : Direction → BitVec 2
  | .encode => 1
  | .decode => 2

/-- `DIR` (R32): 0 until the first data command of the stream, and while no stream is open. -/
def Lifecycle.dirField : Lifecycle → BitVec 2
  | .streaming _ (some dir) => dir.field
  | _ => 0

/-- `PHASE` (R32): the analysis toggle, 0 while the DSP state holds no value. -/
def State.phaseBit (s : State) : Bool :=
  match s.lc with
  | .streaming _ _ => s.dsp.analysis.phase
  | _ => false

/-- The STATUS register (R32): bits [15:11] are hardwired to 0. -/
def statusWord (s : State) : StatusWord :=
  0#5 ++ errCode s.lastErr ++ BitVec.ofBool s.errSeen ++ BitVec.ofBool s.phaseBit
    ++ s.lc.dirField ++ s.lc.modeField ++ s.lc.lcField

/-- The response word from its fields (R86); bits [3], [15:6] and [63:48] are 0. -/
def responseWord (data1 data0 : BitVec 16) (kind : BitVec 2) (err : BitVec 3) : ResponseWord :=
  0#16 ++ data1 ++ data0 ++ 0#10 ++ kind ++ 0#1 ++ err

/-- A successful response of kind `NONE` (R86, R87). -/
def respNone : ResponseWord := responseWord 0 0 0 0

/-- A successful response of kind `OCTET` (R86): the octet in DATA0[7:0]. -/
def respOctet (octet : Nat) : ResponseWord := responseWord 0 (0#8 ++ BitVec.ofNat 8 octet) 1 0

/-- A successful response of kind `PCM_PAIR` (R86, R215): the even sample is DATA0, the odd one DATA1. -/
def respPcmPair (even odd : Int) : ResponseWord :=
  responseWord (BitVec.ofInt 16 odd) (BitVec.ofInt 16 even) 2 0

/-- A successful response of kind `STATUS` (R86). -/
def respStatus (v : StatusWord) : ResponseWord := responseWord 0 v 3 0

/-- The response of a rejected command (R86, R264). -/
def respError (e : Error) : ResponseWord := responseWord 0 0 0 e.code

end Sys2Proof.Machine
end

