-- ==== Sys2Proof/Machine/Ops.lean ====
section
/-! DEFINITION. The shared operations over the state: reading and shifting the QMF registers, the stream
start, leaving the DSP state without a value, answering a command, and rejecting one, which is the core's
only exception mechanism (R264, R266). The core has no memory operation, because it has no address space
(R60), and no return from an exception, because a rejection is not a trap (R266). -/

namespace Sys2Proof.Machine

/-- `x[k]` (R14). Every `k` a rule forms is below `n` (R134, R211, R214). -/
def ShiftReg.get {n : Nat} (x : ShiftReg n) (k : Nat) : Int := x.taps.getD k 0

/-- Shift by one and store `v` as the most recent element; the oldest is dropped (R210, R213). -/
def ShiftReg.push {n : Nat} (v : Int) (x : ShiftReg n) : ShiftReg n :=
  ⟨(v :: x.taps).take n, by simp [x.size]⟩

/-- The shift register whose element `k` is `f k`. -/
def ShiftReg.ofFn (n : Nat) (f : Nat → Int) : ShiftReg n := ⟨(List.range n).map f, by simp⟩

/-- The stream-start value of a band: `det` as given, everything else 0 (R39). -/
def Band.streamStart (det : Int) : Band := { Band.const 0 with det := det }

/-- The stream-start value of the DSP state (R39): `L.det = 32`, `H.det = 8`, everything else 0. -/
def Dsp.streamStart : Dsp :=
  { low := Band.streamStart 32
    high := Band.streamStart 8
    analysis := { x := ShiftReg.const 24 0, phase := false }
    synthesis := { xd := ShiftReg.const 12 0, xs := ShiftReg.const 12 0 } }

/-- A band whose 26 fields are `f 0` to `f 25`, in the order of R24. -/
def Band.ofFn (f : Nat → Int) : Band :=
  { det := f 0, nb := f 1, a1 := f 2, a2 := f 3, b1 := f 4, b2 := f 5, b3 := f 6, b4 := f 7, b5 := f 8,
    b6 := f 9, d0 := f 10, d1 := f 11, d2 := f 12, d3 := f 13, d4 := f 14, d5 := f 15, d6 := f 16,
    r0 := f 17, r1 := f 18, r2 := f 19, p0 := f 20, p1 := f 21, p2 := f 22, sp := f 23, sz := f 24,
    s := f 25 }

/-- A DSP state that holds no value (R23): every field is a free value of the `n`-th such event (log entry 2). -/
def Dsp.noValue (n : Nat) : Dsp :=
  { low := Band.ofFn (fun k => Config.noValue n k)
    high := Band.ofFn (fun k => Config.noValue n (26 + k))
    analysis :=
      { x := ShiftReg.ofFn 24 (fun k => Config.noValue n (52 + k))
        phase := decide (Config.noValue n 76 = 1) }
    synthesis :=
      { xd := ShiftReg.ofFn 12 (fun k => Config.noValue n (77 + k))
        xs := ShiftReg.ofFn 12 (fun k => Config.noValue n (89 + k)) } }

/-- Every DSP field holds no value from here on (R23, R235). -/
def State.dropDsp (s : State) : State := { s with dsp := Dsp.noValue s.drops, drops := s.drops + 1 }

/-- Return one response word to the host (R86). -/
def State.respond (r : ResponseWord) (s : State) : State :=
  { s with port := { s.port with responses := s.port.responses ++ [r] } }

/-- The end of an accepted command: its response, and `LAST_ERR <- 0` (R237). -/
def State.accept (r : ResponseWord) (s : State) : State := State.respond r { s with lastErr := none }

/-- The rejection of a command (R264): `LAST_ERR`, `ERR_SEEN` and the response change, nothing else does. -/
def State.reject (e : Error) (s : State) : State :=
  State.respond (respError e) { s with lastErr := some e, errSeen := true }

/-- The power-on reset input (R38, R290): STATUS is 0 and the DSP state holds no value. What the host has
not yet sent, and what it has received, is the host's. -/
def State.powerOn (s : State) : State :=
  { State.reset with dsp := Dsp.noValue s.drops, drops := s.drops + 1, port := s.port }

/-- Take the next input from the port (R69). -/
def State.takeInput (s : State) : Option (PortInput × State) :=
  match s.port.inputs with
  | [] => none
  | i :: rest => some (i, { s with port := { s.port with inputs := rest } })

/-- Place a command word as the very next input. -/
def State.offer (w : CommandWord) (s : State) : State :=
  { s with port := { s.port with inputs := .command w :: s.port.inputs } }

end Sys2Proof.Machine
end

