-- ==== Sys2Proof/Machine/Adapt.lean ====
section
/-! DEFINITION. The blocks both bands share: the step size from `nb` (R145, R184), and the predictor adaptation
(R146 to R155). -/

namespace Sys2Proof.Machine

/-- SUBTRA, the prediction error (R140, R180). -/
def subtra (x : Int) (b : Band) : Int := clamp16 (x - b.s)

/-- The leaked scale accumulator: `(nb * 32512) >> 15` (R144, R183). -/
def leakNb (nb : Int) : Int := asr (nb * nbLeak) 15

/-- SCALEL and SCALEH, which differ in the base of the shift (R145 with 8, R184 with 10). -/
def scale (base : Int) (nb : Int) : Int :=
  let wd1 := lowBits (asr nb 6) 5
  let wd2 := base - asr nb 11
  let wd3 := if 0 ≤ wd2 then asr (tabInt ilb wd1) wd2.toNat else shl (tabInt ilb wd1) (-wd2).toNat
  shl wd3 2

/-- RECONS (R146). -/
def recons (dq : Int) (b : Band) : Band := { b with r0 := clamp16 (b.s + dq) }

/-- PARREC (R147). -/
def parrec (dq : Int) (b : Band) : Band := { b with p0 := clamp16 (b.sz + dq) }

/-- UPPOL2 (R148). -/
def uppol2 (b : Band) : Int :=
  let wd1 := clamp16 (shl b.a1 2)
  let wd2 := asr (clamp16 (if neg b.p0 = neg b.p1 then -wd1 else wd1)) 7
  let wd3 : Int := if neg b.p0 = neg b.p2 then 128 else -128
  let wd4 := wd2 + wd3
  let wd5 := asr (b.a2 * a2Leak) 15
  clamp (-12288) 12288 (wd4 + wd5)

/-- UPPOL1 (R149): the bound uses the new `apl2`. -/
def uppol1 (apl2 : Int) (b : Band) : Int :=
  let wd1 : Int := if neg b.p0 = neg b.p1 then 192 else -192
  let wd2 := asr (b.a1 * leak255) 15
  let wd3 := 15360 - apl2
  clamp (-wd3) wd3 (clamp16 (wd1 + wd2))

/-- UPZERO for one coefficient `bi` and its difference `di` (R150). -/
def upzero (dq di bi : Int) : Int :=
  let wd1 : Int := if dq = 0 then 0 else 128
  let wd2 := if neg di = neg dq then wd1 else -wd1
  let wd3 := asr (bi * leak255) 15
  clamp16 (wd2 + wd3)

/-- DELAYA (R151), the history shift, with the commit of the six zero coefficients UPZERO computes from the
differences before the shift (R150), and of `apl1` and `apl2`. -/
def delaya (dq apl1 apl2 : Int) (b : Band) : Band :=
  { b with
    d1 := b.d0, d2 := b.d1, d3 := b.d2, d4 := b.d3, d5 := b.d4, d6 := b.d5
    r1 := b.r0, r2 := b.r1
    p1 := b.p0, p2 := b.p1
    a1 := apl1, a2 := apl2
    b1 := upzero dq b.d1 b.b1, b2 := upzero dq b.d2 b.b2, b3 := upzero dq b.d3 b.b3
    b4 := upzero dq b.d4 b.b4, b5 := upzero dq b.d5 b.b5, b6 := upzero dq b.d6 b.b6 }

/-- One filter term: `(coef * clamp16(v + v)) >> 15` (R152, R153, D5). -/
def filterTerm (coef v : Int) : Int := asr (coef * clamp16 (v + v)) 15

/-- FILTEP (R152). -/
def filtep (b : Band) : Band := { b with sp := clamp16 (filterTerm b.a1 b.r1 + filterTerm b.a2 b.r2) }

/-- FILTEZ (R153): the partial sum is clamped after each of the six terms, in the order i = 1..6 (D6). -/
def filtez (b : Band) : Band :=
  { b with
    sz := [(b.b1, b.d1), (b.b2, b.d2), (b.b3, b.d3), (b.b4, b.d4), (b.b5, b.d5), (b.b6, b.d6)].foldl
      (fun acc bd => clamp16 (acc + filterTerm bd.1 bd.2)) 0 }

/-- PREDIC (R154). -/
def predic (b : Band) : Band := { b with s := clamp16 (b.sp + b.sz) }

/-- RECONS and PARREC, the first half of ADAPT (R155): they read the old `s` and `sz`. -/
def adaptSignals (dq : Int) (b : Band) : Band := parrec dq (recons dq { b with d0 := dq })

/-- UPPOL2, UPPOL1, UPZERO and DELAYA (R155). -/
def adaptCoefs (dq : Int) (b : Band) : Band := delaya dq (uppol1 (uppol2 b) b) (uppol2 b) b

/-- ADAPT(B, dq) (R155). -/
def adapt (dq : Int) (b : Band) : Band := predic (filtez (filtep (adaptCoefs dq (adaptSignals dq b))))

end Sys2Proof.Machine
end

