-- ==== Sys2Proof/Machine/HighBand.lean ====
section
/-! DEFINITION. The high-band blocks and the two high-band operations (R181 to R186). -/

namespace Sys2Proof.Machine

/-- The single threshold `((564 << 3) * det) >> 15` (R181). -/
def quanthLevel (det : Int) : Int := asr (shl 564 3 * det) 15

/-- The magnitude class `mih` (R181): a magnitude equal to the threshold is in the large class. -/
def quanthClass (eh det : Int) : Nat := if quanthLevel det ≤ magnitude eh then 2 else 1

/-- QUANTH, the 2-bit codeword (R181). -/
def quanth (eh det : Int) : Nat :=
  if eh < 0 then tabNat ihn (quanthClass eh det) else tabNat ihp (quanthClass eh det)

/-- INVQAH (R182). -/
def invqah (det : Int) (ih : Nat) : Int := asr (det * tabInt qm2 ih) 15

/-- LOGSCH (R183). -/
def logsch (ih : Nat) (nb : Int) : Int := clamp 0 nbMaxHigh (leakNb nb + tabInt wh (tabNat rh2 ih))

/-- SCALEH (R184). -/
def scaleh (nb : Int) : Int := scale 10 nb

/-- LOGSCH and then SCALEH (R185, R186). -/
def rescaleHigh (ih : Nat) (h : Band) : Band :=
  { h with nb := logsch ih h.nb, det := scaleh (logsch ih h.nb) }

/-- What both high-band operations do with the code `ih`: INVQAH with the old `det`, LOGSCH, SCALEH and
ADAPT (R185, R186). -/
def highTick (ih : Nat) (h : Band) : Band := adapt (invqah h.det ih) (rescaleHigh ih h)

/-- The codeword HB_ENCODE returns (R185). -/
def highCode (x : Int) (h : Band) : Nat := quanth (subtra x h) h.det

/-- HB_ENCODE(x): the 2-bit codeword and the new band state (R185). -/
def hbEncode (x : Int) (h : Band) : Nat × Band := (highCode x h, highTick (highCode x h) h)

/-- HB_DECODE(ih): the output `rh` and the new band state (R186). -/
def hbDecode (ih : Nat) (h : Band) : Int × Band := (clamp16 (h.s + invqah h.det ih), highTick ih h)

end Sys2Proof.Machine
end

