-- ==== Sys2Proof/Machine/LowBand.lean ====
section
/-! DEFINITION. The low-band blocks and the two low-band operations (R141 to R145, R156, R157). -/

namespace Sys2Proof.Machine

/-- The decision level `((Q6[i] << 3) * det) >> 15` (R141). -/
def quantlLevel (det : Int) (i : Nat) : Int := asr (shl (tabInt q6 i) 3 * det) 15

/-- The search of R141 over `i, i + 1, ...` for at most `fuel` indices: the first level above `wd`, else 30. -/
def quantlSearch (wd det : Int) : Nat → Nat → Nat
  | 0, _ => 30
  | fuel + 1, i => if wd < quantlLevel det i then i else quantlSearch wd det fuel (i + 1)

/-- The magnitude class `mil` (R141): the search runs over i = 1..29. -/
def quantlClass (el det : Int) : Nat := quantlSearch (magnitude el) det 29 1

/-- QUANTL, the 6-bit codeword (R141). -/
def quantl (el det : Int) : Nat :=
  if el < 0 then tabNat iln (quantlClass el det) else tabNat ilp (quantlClass el det)

/-- INVQAL: QM4 with the 4-bit core code, in every mode (R142). -/
def invqal (det : Int) (ril : Nat) : Int := asr (det * tabInt qm4 ril) 15

/-- The table of INVQBL (R143). -/
def invqblTable : Mode → List Int
  | .mode1 => qm6
  | .mode2 => qm5
  | .mode3 => qm4

/-- INVQBL, the difference that forms the decoder output (R143). -/
def invqbl (mode : Mode) (det : Int) (il : Nat) : Int := asr (det * tabInt (invqblTable mode) il) 15

/-- LOGSCL (R144). -/
def logscl (ril : Nat) (nb : Int) : Int := clamp 0 nbMaxLow (leakNb nb + tabInt wl (tabNat rl42 ril))

/-- SCALEL (R145). -/
def scalel (nb : Int) : Int := scale 8 nb

/-- LOGSCL and then SCALEL (R156, R157). -/
def rescaleLow (ril : Nat) (l : Band) : Band :=
  { l with nb := logscl ril l.nb, det := scalel (logscl ril l.nb) }

/-- What both low-band operations do with the core code `ril`: INVQAL with the old `det`, LOGSCL, SCALEL
and ADAPT (R156, R157). -/
def lowTick (ril : Nat) (l : Band) : Band := adapt (invqal l.det ril) (rescaleLow ril l)

/-- The 6-bit codeword LB_ENCODE produces before it drops low bits (R156). -/
def lowCode (x : Int) (l : Band) : Nat := quantl (subtra x l) l.det

/-- LB_ENCODE(x, mode): the `w`-bit codeword and the new band state (R156). -/
def lbEncode (x : Int) (mode : Mode) (l : Band) : Nat × Band :=
  (lowCode x l >>> (6 - mode.width), lowTick (lowCode x l >>> 2) l)

/-- LB_DECODE(il_w, mode): the output `rl` and the new band state (R157). -/
def lbDecode (il : Nat) (mode : Mode) (l : Band) : Int × Band :=
  (clamp16 (l.s + invqbl mode l.det il), lowTick (il >>> (mode.width - 4)) l)

end Sys2Proof.Machine
end

