-- ==== Sys2Proof/Machine/Qmf.lean ====
section
/-! DEFINITION. The analysis and synthesis quadrature mirror filters (R210 to R215). -/

namespace Sys2Proof.Machine

/-- `Σ_{i=0..11} x[2i] * H[2i]` (R211). -/
def sumEven (x : ShiftReg 24) : Int := sumTo 12 (fun i => x.get (2 * i) * tabInt qmfH (2 * i))

/-- `Σ_{i=0..11} x[2i+1] * H[2i+1]` (R211). -/
def sumOdd (x : ShiftReg 24) : Int := sumTo 12 (fun i => x.get (2 * i + 1) * tabInt qmfH (2 * i + 1))

/-- ANALYSIS_OUT: the low and the high sub-band sample (R211). The lower clamp of `high` is -16383 (R212). -/
def analysisOut (x : ShiftReg 24) : Int × Int :=
  (clamp (-16384) 16383 (asr (sumEven x + sumOdd x) 13),
   clamp (-16383) 16383 (asr (sumEven x - sumOdd x) 13))

/-- The shift and the toggle of ANALYSIS_PUSH (R210). -/
def analysisShift (pcm : Int) (a : Analysis) : Analysis := { x := a.x.push pcm, phase := !a.phase }

/-- ANALYSIS_PUSH (R210): the pair of an output call, `none` on the intervening call, and the new state. -/
def analysisPush (pcm : Int) (a : Analysis) : Option (Int × Int) × Analysis :=
  let a' := analysisShift pcm a
  (if a'.phase then none else some (analysisOut a'.x), a')

/-- The shift of SYNTHESIS_PUSH (R213). -/
def synthesisShift (rl rh : Int) (y : Synthesis) : Synthesis :=
  { xd := y.xd.push (clamp14 (rl - rh)), xs := y.xs.push (clamp14 (rl + rh)) }

/-- SYNTHESIS_OUT: the even and the odd full-band sample (R214, R215). -/
def synthesisOut (y : Synthesis) : Int × Int :=
  (clamp14 (asr (sumTo 12 (fun i => y.xd.get i * tabInt qmfH (2 * i))) 12),
   clamp14 (asr (sumTo 12 (fun i => y.xs.get i * tabInt qmfH (2 * i + 1))) 12))

/-- SYNTHESIS_PUSH (R213): the two full-band samples and the new state. -/
def synthesisPush (rl rh : Int) (y : Synthesis) : (Int × Int) × Synthesis :=
  let y' := synthesisShift rl rh y
  (synthesisOut y', y')

end Sys2Proof.Machine
end

