-- ==== Sys2Proof/Machine/Data.lean ====
section
/-! DEFINITION. The data commands ENC and DEC (R231, R233, R238). -/

namespace Sys2Proof.Machine

/-- The octet of one encode tick, and the DSP state after it: LB_ENCODE and HB_ENCODE on the pair the
analysis filter gives, then PACK (R231, R232). -/
def encodeTick (mode : Mode) (pair : Int × Int) (d : Dsp) : Nat × Dsp :=
  let l := lbEncode pair.1 mode d.low
  let h := hbEncode pair.2 d.high
  (pack l.1 h.1 mode, { d with low := l.2, high := h.2 })

/-- The two samples of one decode tick, and the DSP state after it: LB_DECODE, HB_DECODE and
SYNTHESIS_PUSH (R233). -/
def decodeTick (mode : Mode) (il ih : Nat) (d : Dsp) : (Int × Int) × Dsp :=
  let l := lbDecode il mode d.low
  let h := hbDecode ih d.high
  let y := synthesisPush l.1 h.1 d.synthesis
  (y.1, { d with low := l.2, high := h.2, synthesis := y.2 })

/-- ENCODE_SAMPLE(pcm) (R231): InvalidState before DirectionMismatch (R263); every sample is accepted (D23). -/
def execEnc (pcm : Int) (s : State) : Host.Outcome State Fault Refusal :=
  match s.lc with
  | .idle | .closed => .next (s.reject .invalidState)
  | .streaming _ (some .decode) => .next (s.reject .directionMismatch)
  | .streaming mode _ =>
    let a := analysisPush pcm s.dsp.analysis
    let d := { s.dsp with analysis := a.2 }
    let lc := Lifecycle.streaming mode (some .encode)
    match a.1 with
    | none => .next (State.accept respNone { s with lc := lc, dsp := d })
    | some pair =>
      let e := encodeTick mode pair d
      .next (State.accept (respOctet e.1) { s with lc := lc, dsp := e.2 })

/-- DECODE_CODEWORD(octet) (R233): InvalidState, DirectionMismatch and InvalidInput in that order (R263); an
octet rejected for padding does not lock the direction. -/
def execDec (octet : Nat) (s : State) : Host.Outcome State Fault Refusal :=
  match s.lc with
  | .idle | .closed => .next (s.reject .invalidState)
  | .streaming _ (some .encode) => .next (s.reject .directionMismatch)
  | .streaming mode _ =>
    let u := unpack octet mode
    if u.pad ≠ 0 then .next (s.reject .invalidInput)
    else
      let y := decodeTick mode u.il u.ih s.dsp
      .next (State.accept (respPcmPair y.1.1 y.1.2)
        { s with lc := .streaming mode (some .decode), dsp := y.2 })

end Sys2Proof.Machine
end

