-- ==== Sys2Proof/Machine/Lifecycle.lean ====
section
/-! DEFINITION. The lifecycle commands OPEN and CLOSE, and the STATUS read (R230, R235, R236). -/

namespace Sys2Proof.Machine

/-- OPEN(m) (R230): InvalidState before InvalidConfig (R263). -/
def execOpen (m : Nat) (s : State) : Host.Outcome State Fault Refusal :=
  match s.lc with
  | .streaming _ _ => .next (s.reject .invalidState)
  | .idle | .closed =>
    match Mode.ofField m with
    | none => .next (s.reject .invalidConfig)
    | some mode => .next (State.accept respNone { s with lc := .streaming mode none, dsp := Dsp.streamStart })

/-- CLOSE (R235): every DSP field holds no value; a pending sample is discarded (R295). -/
def execClose (s : State) : Host.Outcome State Fault Refusal :=
  match s.lc with
  | .idle | .closed => .next (s.reject .invalidState)
  | .streaming _ _ => .next (State.accept respNone { s.dropDsp with lc := .closed })

/-- STATUS (R236): it returns the value before this command, in every lifecycle state. -/
def execStatus (s : State) : Host.Outcome State Fault Refusal :=
  .next (State.accept (respStatus (statusWord s)) s)

end Sys2Proof.Machine
end

