-- ==== Sys2Proof/Machine/Dispatch.lean ====
section
/-! DEFINITION. One arm per command (R237). -/

namespace Sys2Proof.Machine

def exec (i : Instr) (s : State) : Host.Outcome State Fault Refusal :=
  match i with
  | .openStream m => Sys2Proof.Machine.execOpen m s
  | .enc pcm => Sys2Proof.Machine.execEnc pcm s
  | .dec octet => Sys2Proof.Machine.execDec octet s
  | .close => Sys2Proof.Machine.execClose s
  | .status => Sys2Proof.Machine.execStatus s

end Sys2Proof.Machine
end

