-- ==== Sys2Proof/Machine/Step.lean ====
section
/-! DEFINITION. One step of the core: it takes the next input of the port (R69, R237, R290). -/

namespace Sys2Proof.Machine

/-- Execute a command word (R237): a word that matches no row of R83 is rejected as IllegalCommand. -/
def runCommand (w : CommandWord) (s : State) : Host.Outcome State Fault Refusal :=
  match decode w with
  | some i => exec i s
  | none => .next (s.reject .illegalCommand)

/-- One step. With no input at the port the core does nothing and holds all its state (R275). -/
def step (s : State) : Host.Outcome State Fault Refusal :=
  match s.takeInput with
  | none => .next s
  | some (.powerOnReset, s') => .next s'.powerOn
  | some (.command w, s') => runCommand w s'

/-- `s` with the word of a table row as the very next input of the port (log entry 3). -/
def State.withFetchWord (s : State) (nbits w : Nat) : State := s.offer (tableWord nbits w)

end Sys2Proof.Machine
end

