-- ==== Sys2Proof/Machine/Assembler.lean ====
section
/-! DEFINITION. The assembler notation of R98: from the characters of a line to its command word, and a program
as the inputs of the port. It is a notation, not part of the core; nothing expands to more than one command. -/

namespace Sys2Proof.Machine

/-- The value of a digit in the given base, 10 or 16. -/
def digitValue (base : Nat) (c : Char) : Option Nat :=
  let n := c.toNat
  let v :=
    if 48 ≤ n ∧ n ≤ 57 then n - 48
    else if 97 ≤ n ∧ n ≤ 102 then n - 87
    else if 65 ≤ n ∧ n ≤ 70 then n - 55
    else base
  if v < base then some v else none

/-- Digits, the most significant first, onto what has been read. -/
def readDigits (base : Nat) : Nat → List Char → Option Nat
  | acc, [] => some acc
  | acc, c :: cs =>
    match digitValue base c with
    | none => none
    | some v => readDigits base (acc * base + v) cs

/-- A decimal or `0x` hexadecimal number (R98). -/
def readNat : List Char → Option Nat
  | '0' :: 'x' :: c :: cs => readDigits 16 0 (c :: cs)
  | c :: cs => readDigits 10 0 (c :: cs)
  | [] => none

/-- A number with an optional minus sign (R98). -/
def readInt : List Char → Option Int
  | '-' :: cs => (readNat cs).map (fun n => -(n : Int))
  | cs => (readNat cs).map (fun n => (n : Int))

/-- Text after `;` is a comment (R98). -/
def dropComment (cs : List Char) : List Char := cs.takeWhile (fun c => c ≠ ';')

/-- The words of a line: blanks and tabs separate them. -/
def wordsOf (cs : List Char) : List (List Char) :=
  (cs.foldr
    (fun c acc =>
      if c = ' ' ∨ c = '\t' then [] :: acc
      else match acc with
        | [] => [[c]]
        | w :: ws => (c :: w) :: ws)
    [[]]).filter (fun w => w ≠ [])

/-- A command whose operand is in the range R98 gives it, as a line. -/
def checkedLine (i : Instr) : Option (Option AsmLine) := if i.wf then some (some (.instr i)) else none

/-- A line of a program (R98): `none` if it is not of the syntax, `some none` for a line without a command. -/
def readLine (cs : List Char) : Option (Option AsmLine) :=
  match wordsOf (dropComment cs) with
  | [] => some none
  | [m] =>
    if m = ['C', 'L', 'O', 'S', 'E'] then checkedLine .close
    else if m = ['S', 'T', 'A', 'T', 'U', 'S'] then checkedLine .status
    else none
  | [m, a] =>
    if m = ['O', 'P', 'E', 'N'] then (readNat a).bind (fun v => checkedLine (.openStream v))
    else if m = ['E', 'N', 'C'] then (readInt a).bind (fun v => checkedLine (.enc v))
    else if m = ['D', 'E', 'C'] then (readNat a).bind (fun v => checkedLine (.dec v))
    else if m = ['.', 'w', 'o', 'r', 'd'] then
      (readNat a).bind (fun v => if v < 2 ^ 32 then some (some (.word (BitVec.ofNat 32 v))) else none)
    else none
  | _ => none

/-- The command words of a program (R98), one per line that holds a command; `none` if a line is not of the syntax. -/
def readProgram : List (List Char) → Option (List CommandWord)
  | [] => some []
  | l :: ls =>
    match readLine l, readProgram ls with
    | some none, some ws => some ws
    | some (some a), some ws => some (assemble a :: ws)
    | _, _ => none

/-- The state with a program waiting at the port, after what already waits there. -/
def State.withProgram (ws : List CommandWord) (s : State) : State :=
  { s with port := { s.port with inputs := s.port.inputs ++ ws.map .command } }

end Sys2Proof.Machine
end

