-- ==== Sys2Proof/Safety.lean ====
section
/-! DEFINITION. The terms claims use: the invariant of the state (10_state.md), and when two states differ only
in DSP content that holds no value (R23). -/

namespace Sys2Proof.Machine

/-- The signed 16-bit range (R11). -/
def Fits16 (v : Int) : Prop := -32768 ≤ v ∧ v ≤ 32767

/-- The range of `clamp14`, which is that of the synthesis registers (R31). -/
def Fits15 (v : Int) : Prop := -16384 ≤ v ∧ v ≤ 16383

/-- `|v| ≤ m`. -/
def Within (m v : Int) : Prop := -m ≤ v ∧ v ≤ m

/-- What differs between the bands (R25, R27, R29): the base of the step-size shift, the bound of `nb`, the
least step size, and the bound of the difference history. -/
structure BandKind where
  base : Int
  nbMax : Int
  detMin : Int
  dMax : Int
  deriving DecidableEq, Repr

/-- The low band (R27, R29). -/
def BandKind.low : BandKind := { base := 8, nbMax := 18432, detMin := 32, dMax := 10228 }

/-- The high band (R27, R29). -/
def BandKind.high : BandKind := { base := 10, nbMax := 22528, detMin := 8, dMax := 3704 }

/-- The ranges of a band state: R27 for `nb` and `det`, R28 for the pole coefficients, R29 for the difference
history, R24 for the rest, and R26 for the copies `d[0]`, `r[0]`, `p[0]`. -/
structure Band.Inv (k : BandKind) (b : Band) : Prop where
  nbRange : 0 ≤ b.nb ∧ b.nb ≤ k.nbMax
  detOfNb : b.det = scale k.base b.nb
  detRange : k.detMin ≤ b.det ∧ b.det ≤ 16384
  detMultiple : b.det % 4 = 0
  a2Range : Within 12288 b.a2
  a1Range : Within (15360 - b.a2) b.a1
  bRange : Fits16 b.b1 ∧ Fits16 b.b2 ∧ Fits16 b.b3 ∧ Fits16 b.b4 ∧ Fits16 b.b5 ∧ Fits16 b.b6
  dRange : Within k.dMax b.d0 ∧ Within k.dMax b.d1 ∧ Within k.dMax b.d2 ∧ Within k.dMax b.d3 ∧
    Within k.dMax b.d4 ∧ Within k.dMax b.d5 ∧ Within k.dMax b.d6
  rRange : Fits16 b.r0 ∧ Fits16 b.r1 ∧ Fits16 b.r2
  pRange : Fits16 b.p0 ∧ Fits16 b.p1 ∧ Fits16 b.p2
  predRange : Fits16 b.sp ∧ Fits16 b.sz ∧ Fits16 b.s
  copies : b.d0 = b.d1 ∧ b.r0 = b.r1 ∧ b.p0 = b.p1

/-- The invariant of the DSP state of a stream locked to `dir`: the ranges of the bands and of the filter
registers (R24 to R31), and the filters the direction never touches are as OPEN left them (R34, R238). -/
structure Dsp.Inv (dir : Option Direction) (d : Dsp) : Prop where
  low : d.low.Inv .low
  high : d.high.Inv .high
  analysisRange : ∀ v ∈ d.analysis.x.taps, Fits16 v
  synthesisRange : (∀ v ∈ d.synthesis.xd.taps, Fits15 v) ∧ (∀ v ∈ d.synthesis.xs.taps, Fits15 v)
  analysisIdle : dir ≠ some .encode → d.analysis = Dsp.streamStart.analysis
  synthesisIdle : dir ≠ some .decode → d.synthesis = Dsp.streamStart.synthesis
  freshUnlocked : dir = none → d = Dsp.streamStart

/-- The invariant of the machine: the DSP state of an open stream meets its own, and `ERR_SEEN` is set
whenever `LAST_ERR` shows an error (R32). -/
structure State.Inv (s : State) : Prop where
  errors : ∀ e, s.lastErr = some e → s.errSeen = true
  stream : ∀ mode dir, s.lc = .streaming mode dir → s.dsp.Inv dir

/-- A stream is open: the DSP state holds a value, in the sense of R23. -/
def State.Streaming (s : State) : Prop := ∃ mode dir, s.lc = .streaming mode dir

/-- Two states that differ at most in DSP content that holds no value (R23), and in the model's own counter. -/
structure State.SameHeld (s t : State) : Prop where
  lc : s.lc = t.lc
  errSeen : s.errSeen = t.errSeen
  lastErr : s.lastErr = t.lastErr
  port : s.port = t.port
  dsp : s.Streaming → s.dsp = t.dsp

end Sys2Proof.Machine
end

