-- ==== Sys2Proof/Certificates/Slice0/Obligations.lean ====
section
/-! DEFINITION. The statements for the provers, in the order of OBLIGATIONS.json. Two fields in them are the model's own:
the responses of R86 stand in `port.responses` (log entry 3), and `drops` counts the events of R23 that leave the DSP
state without a value (log entry 2). No statement rests on the content of a DSP field that holds no value. -/

section
open Sys2Proof Sys2Proof.Machine

/-! ## Encoding -/

/-- Every well-formed command decodes from its own word, with every operand at every value (R81 to R83, R98). -/
def Obligations.DecodeInvertsEncode : Prop :=
  ∀ i : Instr, i.wf = true → decode (encode i) = some i

/-- A word that decodes is the word of the command it decodes to, so no other word stands for it (R85). -/
def Obligations.EncodeInvertsDecode : Prop :=
  ∀ (w : CommandWord) (i : Instr), decode w = some i → i.wf = true ∧ encode i = w

/-- The decoder is the match and mask table of R83 with the operands of R81, its rows are disjoint, and a word that
matches none is rejected as an IllegalCommand in every state. -/
def Obligations.DecodeIsTheMatchMaskTable : Prop :=
  (∀ w : CommandWord,
    decode w =
      if w &&& 0xFFFFFFCF#32 = 0x00000001#32 then some (.openStream ((w >>> 4) &&& 3#32).toNat)
      else if w &&& 0x0000FFFF#32 = 0x00000002#32 then some (.enc ((w >>> 16).setWidth 16).toInt)
      else if w &&& 0xFF00FFFF#32 = 0x00000003#32 then some (.dec ((w >>> 16) &&& 0xFF#32).toNat)
      else if w &&& 0xFFFFFFFF#32 = 0x00000004#32 then some .close
      else if w &&& 0xFFFFFFFF#32 = 0x00000005#32 then some .status
      else none) ∧
  (∀ w : CommandWord,
    ∀ a ∈ [(0x00000001#32, 0xFFFFFFCF#32), (0x00000002#32, 0x0000FFFF#32), (0x00000003#32, 0xFF00FFFF#32),
        (0x00000004#32, 0xFFFFFFFF#32), (0x00000005#32, 0xFFFFFFFF#32)],
    ∀ b ∈ [(0x00000001#32, 0xFFFFFFCF#32), (0x00000002#32, 0x0000FFFF#32), (0x00000003#32, 0xFF00FFFF#32),
        (0x00000004#32, 0xFFFFFFFF#32), (0x00000005#32, 0xFFFFFFFF#32)],
      w &&& a.2 = a.1 → w &&& b.2 = b.1 → a = b) ∧
  (∀ (s : State) (w : CommandWord) (rest : List PortInput), s.port.inputs = .command w :: rest → decode w = none →
    step s = .next
      { s with lastErr := some .illegalCommand, errSeen := true,
               port := { inputs := rest, responses := s.port.responses ++ [1#64] } })

/-- Words of the programs of 95_test_vectors.md, and the malformed words of V-C11 to V-C15 and V-C22. -/
def Obligations.SpecWordsDecodeToTheirLines : Prop :=
  decode 0x00000001#32 = some (.openStream 0) ∧ decode 0x00000011#32 = some (.openStream 1) ∧
  decode 0x00000031#32 = some (.openStream 3) ∧ decode 0x03E80002#32 = some (.enc 1000) ∧
  decode 0xFC180002#32 = some (.enc (-1000)) ∧ decode 0x7FFF0002#32 = some (.enc 32767) ∧
  decode 0x80000002#32 = some (.enc (-32768)) ∧ decode 0x00FA0003#32 = some (.dec 250) ∧
  decode 0x00000004#32 = some .close ∧ decode 0x00000005#32 = some .status ∧
  decode 0x00000000#32 = none ∧ decode 0x00000006#32 = none ∧ decode 0x00000013#32 = none ∧
  decode 0x00010004#32 = none ∧ decode 0x00000045#32 = none ∧ decode 0x00000022#32 = none ∧
  decode 0x01000003#32 = none

/-- The word of each line of the assembler notation (R98). -/
def Obligations.AssemblerLinesGiveTheirWords : Prop :=
  (∀ m : Nat, m ≤ 3 → assemble (.instr (.openStream m)) = 0x00000001#32 ||| (BitVec.ofNat 32 m <<< 4)) ∧
  (∀ v : Int, -32768 ≤ v → v ≤ 32767 →
    assemble (.instr (.enc v)) = 0x00000002#32 ||| ((BitVec.ofInt 32 v &&& 0xFFFF#32) <<< 16)) ∧
  (∀ o : Nat, o ≤ 255 → assemble (.instr (.dec o)) = 0x00000003#32 ||| (BitVec.ofNat 32 o <<< 16)) ∧
  assemble (.instr .close) = 0x00000004#32 ∧ assemble (.instr .status) = 0x00000005#32 ∧
  (∀ w : CommandWord, assemble (.word w) = w)

/-! ## The step -/

/-- A step takes the next command word and runs the command it decodes to on the state without that word; the
core has no program counter to move (R21, R69, R237). -/
def Obligations.StepRunsTheDecodedCommand : Prop :=
  ∀ (s : State) (w : CommandWord) (rest : List PortInput) (i : Instr),
    s.port.inputs = .command w :: rest → decode w = some i →
    step s = exec i { s with port := { inputs := rest, responses := s.port.responses } }

/-- With nothing at the port the core holds all its state (R275). -/
def Obligations.IdleCoreHoldsItsState : Prop :=
  ∀ s : State, s.port.inputs = [] → step s = .next s

/-- The power-on reset input leaves STATUS 0 and no open stream, and returns no response (R38, R290). -/
def Obligations.PowerOnResetClearsStatus : Prop :=
  ∀ (s : State) (rest : List PortInput), s.port.inputs = .powerOnReset :: rest →
    ∃ t, step s = .next t ∧ statusWord t = 0#16 ∧ t.lc = .idle ∧ t.errSeen = false ∧ t.lastErr = none ∧
      ¬ t.Streaming ∧ t.port = { inputs := rest, responses := s.port.responses }

/-- The machine after reset: `Idle`, STATUS 0, nothing at the port (R38). -/
def Obligations.ResetIsIdleWithStatusZero : Prop :=
  State.reset.lc = .idle ∧ statusWord State.reset = 0#16 ∧ State.reset.port = { inputs := [], responses := [] }

/-- No input stops the core: every step reaches a next state (R260, R266). -/
def Obligations.EveryStepReachesANextState : Prop :=
  ∀ s : State, ∃ t, step s = .next t

/-- Commands are taken in arrival order, each to completion (R69, R86): `n` command words, of whatever form, are `n`
steps and `n` response words, and step `k` runs word `k` on the state the words before it left, and its response is
response `k`. The queue and the responses are the model's own fields (log entry 3). -/
def Obligations.CommandsCompleteInArrivalOrder : Prop :=
  ∀ (ws : List CommandWord) (s : State), s.port.inputs = ws.map .command →
    ∃ rs : List ResponseWord, rs.length = ws.length ∧
      (∃ t, Sys2Proof.core.run ws.length s = .next t ∧ t.port.inputs = [] ∧
        t.port.responses = s.port.responses ++ rs) ∧
      ∀ k w, ws[k]? = some w → ∃ u v r, rs[k]? = some r ∧
        Sys2Proof.core.run k s = .next u ∧ u.port.responses = s.port.responses ++ rs.take k ∧
        runCommand w { u with
          port := { inputs := (ws.drop (k + 1)).map .command, responses := u.port.responses } } = .next v ∧
        v.port.responses = u.port.responses ++ [r] ∧ Sys2Proof.core.run (k + 1) s = .next v

/-! ## The lifecycle commands -/

/-- OPEN (R230): InvalidState while streaming, else InvalidConfig for `m = 0`, else the stream-start values of R39. -/
def Obligations.OpenStartsAFreshStream : Prop :=
  ∀ (s : State) (m : Nat),
    (s.Streaming → exec (.openStream m) s = .next
      { s with lastErr := some .invalidState, errSeen := true,
               port := { s.port with responses := s.port.responses ++ [4#64] } }) ∧
    (¬ s.Streaming → m = 0 → exec (.openStream m) s = .next
      { s with lastErr := some .invalidConfig, errSeen := true,
               port := { s.port with responses := s.port.responses ++ [2#64] } }) ∧
    (∀ md, ¬ s.Streaming → (m, md) ∈ [(1, Mode.mode1), (2, Mode.mode2), (3, Mode.mode3)] →
      exec (.openStream m) s = .next
        { lc := .streaming md none
          errSeen := s.errSeen
          lastErr := none
          dsp :=
            { low := { Band.const 0 with det := 32 }
              high := { Band.const 0 with det := 8 }
              analysis := { x := ShiftReg.const 24 0, phase := false }
              synthesis := { xd := ShiftReg.const 12 0, xs := ShiftReg.const 12 0 } }
          port := { s.port with responses := s.port.responses ++ [0#64] }
          drops := s.drops })

/-- CLOSE (R235): InvalidState when no stream is open, else the stream ends and the DSP state is left without a
value: the statement holds whatever it then contains, and leaves the model's own counter (log entry 2) open. -/
def Obligations.CloseEndsTheStream : Prop :=
  ∀ s : State,
    (¬ s.Streaming → exec .close s = .next
      { s with lastErr := some .invalidState, errSeen := true,
               port := { s.port with responses := s.port.responses ++ [4#64] } }) ∧
    (s.Streaming → ∃ d k, exec .close s = .next
      { lc := .closed, errSeen := s.errSeen, lastErr := none, dsp := d,
        port := { s.port with responses := s.port.responses ++ [0#64] }, drops := k })

/-- STATUS (R236): in every state it returns the register as it was before, and then clears `LAST_ERR`. -/
def Obligations.StatusReturnsTheRegister : Prop :=
  ∀ s : State, exec .status s = .next
    { s with lastErr := none,
             port := { s.port with
               responses := s.port.responses ++ [((statusWord s).setWidth 64 <<< 16) ||| 0x30#64] } }

/-- The fields of STATUS stand where R32 puts them, with the values R32 gives. -/
def Obligations.StatusRegisterHoldsItsFields : Prop :=
  ∀ s : State,
    ((statusWord s).extractLsb' 0 2 =
      match s.lc with | .idle => 0#2 | .streaming _ _ => 1#2 | .closed => 2#2) ∧
    ((statusWord s).extractLsb' 2 2 =
      match s.lc with
      | .streaming .mode1 _ => 1#2 | .streaming .mode2 _ => 2#2 | .streaming .mode3 _ => 3#2 | _ => 0#2) ∧
    ((statusWord s).extractLsb' 4 2 =
      match s.lc with
      | .streaming _ (some .encode) => 1#2 | .streaming _ (some .decode) => 2#2 | _ => 0#2) ∧
    ((statusWord s).getLsbD 6 = true ↔ s.Streaming ∧ s.dsp.analysis.phase = true) ∧
    ((statusWord s).getLsbD 7 = s.errSeen) ∧
    ((statusWord s).extractLsb' 8 3 =
      match s.lastErr with
      | none => 0#3 | some .illegalCommand => 1#3 | some .invalidConfig => 2#3 | some .invalidInput => 3#3
      | some .invalidState => 4#3 | some .directionMismatch => 5#3) ∧
    ((statusWord s).extractLsb' 11 5 = 0#5)

/-! ## The data commands -/

/-- The first sample of a pair (R210, R231): the register shifts, `phase` becomes 1, the direction is locked, no octet
is returned, and nothing else changes. -/
def Obligations.EncodeFirstSampleOfAPair : Prop :=
  ∀ (s : State) (pcm : Int) (md : Mode) (dir : Option Direction),
    s.lc = .streaming md dir → dir ≠ some .decode → s.dsp.analysis.phase = false →
    ∃ x : ShiftReg 24, x.get 0 = pcm ∧ (∀ k, k < 23 → x.get (k + 1) = s.dsp.analysis.x.get k) ∧
      exec (.enc pcm) s = .next
        { s with lc := .streaming md (some .encode), lastErr := none,
                 dsp := { s.dsp with analysis := { x := x, phase := true } },
                 port := { s.port with responses := s.port.responses ++ [0#64] } }

/-- The second sample of a pair (R231): the register shifts, `phase` becomes 0, both bands take a tick on the two
filter outputs, and the octet is the low code with the high code above it. -/
def Obligations.EncodeSecondSampleOfAPair : Prop :=
  ∀ (s : State) (pcm : Int) (md : Mode) (dir : Option Direction),
    s.lc = .streaming md dir → dir ≠ some .decode → s.dsp.analysis.phase = true →
    ∃ x : ShiftReg 24, x.get 0 = pcm ∧ (∀ k, k < 23 → x.get (k + 1) = s.dsp.analysis.x.get k) ∧
      exec (.enc pcm) s = .next
        { s with
          lc := .streaming md (some .encode), lastErr := none,
          dsp :=
            { s.dsp with
              low := (lbEncode (analysisOut x).1 md s.dsp.low).2
              high := (hbEncode (analysisOut x).2 s.dsp.high).2
              analysis := { x := x, phase := false } },
          port := { s.port with
            responses := s.port.responses ++
              [(BitVec.ofNat 64 ((lbEncode (analysisOut x).1 md s.dsp.low).1
                + 2 ^ md.width * (hbEncode (analysisOut x).2 s.dsp.high).1) <<< 16) ||| 0x10#64] } }

/-- DEC of an octet that fits the mode (R233): both bands decode their field of it, the pair enters the synthesis
filter, and the two samples are returned, the even one in DATA0 and the odd one in DATA1 (R215). -/
def Obligations.DecodeReturnsTwoSamples : Prop :=
  ∀ (s : State) (octet : Nat) (md : Mode) (dir : Option Direction),
    s.lc = .streaming md dir → dir ≠ some .encode → octet < 4 * 2 ^ md.width →
    let l := lbDecode (octet % 2 ^ md.width) md s.dsp.low
    let h := hbDecode (octet / 2 ^ md.width) s.dsp.high
    let y := synthesisPush l.1 h.1 s.dsp.synthesis
    exec (.dec octet) s = .next
      { s with
        lc := .streaming md (some .decode), lastErr := none,
        dsp := { s.dsp with low := l.2, high := h.2, synthesis := y.2 },
        port := { s.port with
          responses := s.port.responses ++
            [((BitVec.ofInt 16 y.1.2).setWidth 64 <<< 32) ||| ((BitVec.ofInt 16 y.1.1).setWidth 64 <<< 16)
              ||| 0x20#64] } }

/-- What ENC and DEC leave alone in every case (R34, R238, R264): ENC the synthesis filter, DEC the analysis filter, and
both the inputs still waiting, the earlier responses, a set `ERR_SEEN` and the mode; on the first sample of a pair
ENC leaves both bands alone too. -/
def Obligations.DataCommandsFrame : Prop :=
  ∀ (s t : State),
    (∀ pcm, exec (.enc pcm) s = .next t →
      t.dsp.synthesis = s.dsp.synthesis ∧ t.port.inputs = s.port.inputs ∧ t.drops = s.drops ∧
      (∃ r, t.port.responses = s.port.responses ++ [r]) ∧ (s.errSeen = true → t.errSeen = true) ∧
      t.lc.modeField = s.lc.modeField ∧
      (s.dsp.analysis.phase = false → t.dsp.low = s.dsp.low ∧ t.dsp.high = s.dsp.high)) ∧
    (∀ octet, exec (.dec octet) s = .next t →
      t.dsp.analysis = s.dsp.analysis ∧ t.port.inputs = s.port.inputs ∧ t.drops = s.drops ∧
      (∃ r, t.port.responses = s.port.responses ++ [r]) ∧ (s.errSeen = true → t.errSeen = true) ∧
      t.lc.modeField = s.lc.modeField)

/-- An encode stream returns `n` octets for `2n` samples: `NONE`, then an octet, for every pair of samples in order
(R87, R231, R294). -/
def Obligations.EncodeStreamReturnsOneOctetPerPair : Prop :=
  ∀ (ps : List (Int × Int)) (s : State) (md : Mode) (dir : Option Direction),
    (∀ p ∈ ps, Fits16 p.1 ∧ Fits16 p.2) →
    s.lc = .streaming md dir → dir ≠ some .decode → s.dsp.analysis.phase = false →
    s.port.inputs = ps.flatMap (fun p => [.command (encode (.enc p.1)), .command (encode (.enc p.2))]) →
    ∃ (t : State) (os : List Nat), Sys2Proof.core.run (2 * ps.length) s = .next t ∧ t.port.inputs = [] ∧
      os.length = ps.length ∧ (∀ o ∈ os, o < 4 * 2 ^ md.width) ∧
      t.port.responses =
        s.port.responses ++ os.flatMap (fun o => [0#64, (BitVec.ofNat 64 o <<< 16) ||| 0x10#64])

/-! ## Rejection -/

/-- Every row of the error table, with the priority of R263 and the effect of R264: the error fields and the response
change, and nothing else. Bits are read from the raw word. -/
def Obligations.RejectionsFollowTheErrorTable : Prop :=
  ∀ (s : State) (w : CommandWord) (rest : List PortInput), s.port.inputs = .command w :: rest →
    let op := (w.extractLsb' 0 4).toNat
    let modeBits := w.extractLsb' 4 2
    let dataBits := w.extractLsb' 16 16
    let illegal := op = 0 ∨ 6 ≤ op ∨ w.extractLsb' 6 10 ≠ 0 ∨ (modeBits ≠ 0 ∧ op ≠ 1) ∨
      (dataBits ≠ 0 ∧ (op = 1 ∨ op = 4 ∨ op = 5)) ∨ (w.extractLsb' 24 8 ≠ 0 ∧ op = 3)
    let rejected := fun (e : Error) (code : ResponseWord) => step s = .next
      { s with lastErr := some e, errSeen := true,
               port := { inputs := rest, responses := s.port.responses ++ [code] } }
    (illegal → rejected .illegalCommand 1#64) ∧
    (¬ illegal → op = 1 → s.Streaming → rejected .invalidState 4#64) ∧
    (¬ illegal → (op = 2 ∨ op = 3 ∨ op = 4) → ¬ s.Streaming → rejected .invalidState 4#64) ∧
    (∀ md, ¬ illegal → op = 2 → s.lc = .streaming md (some .decode) → rejected .directionMismatch 5#64) ∧
    (∀ md, ¬ illegal → op = 3 → s.lc = .streaming md (some .encode) → rejected .directionMismatch 5#64) ∧
    (¬ illegal → op = 1 → ¬ s.Streaming → modeBits = 0 → rejected .invalidConfig 2#64) ∧
    (∀ md dir, ¬ illegal → op = 3 → s.lc = .streaming md dir → dir ≠ some .encode →
      (md = .mode2 ∧ w.getLsbD 23 = true ∨ md = .mode3 ∧ (w.getLsbD 23 = true ∨ w.getLsbD 22 = true)) →
      rejected .invalidInput 3#64)

/-- A command to which no row of the error table applies is accepted: each of the five completes, returns a response
with `ERR = 0`, clears `LAST_ERR` and keeps `ERR_SEEN` (R237, R262). -/
def Obligations.CommandsWithoutACauseAreAccepted : Prop :=
  ∀ (s : State) (md : Mode) (dir : Option Direction),
    let accepted := fun (i : Instr) => ∃ t r, exec i s = .next t ∧ t.lastErr = none ∧ t.errSeen = s.errSeen ∧
      t.port.inputs = s.port.inputs ∧ t.port.responses = s.port.responses ++ [r] ∧ r.extractLsb' 0 3 = 0#3
    (∀ m, ¬ s.Streaming → 1 ≤ m → m ≤ 3 → accepted (.openStream m)) ∧
    (∀ pcm, s.lc = .streaming md dir → dir ≠ some .decode → accepted (.enc pcm)) ∧
    (∀ octet, s.lc = .streaming md dir → dir ≠ some .encode → octet < 4 * 2 ^ md.width → accepted (.dec octet)) ∧
    (s.lc = .streaming md dir → accepted .close) ∧
    accepted .status

/-- A rejected command changed nothing but the error fields and the response (R67, R264): no half-done work. -/
def Obligations.RejectionIsAtomic : Prop :=
  ∀ (i : Instr) (s t : State) (e : Error), exec i s = .next t → t.lastErr = some e →
    t = { s with lastErr := some e, errSeen := true,
                 port := { s.port with responses := s.port.responses ++ [(errCode (some e)).setWidth 64] } }

/-- Every command returns exactly one response word, laid out as R86 says: reserved bits 0, a code of R261, no data on
a rejection, DATA1 only in a `PCM_PAIR`, an octet with zero high bits. -/
def Obligations.EveryCommandReturnsOneResponse : Prop :=
  ∀ (s t : State) (w : CommandWord) (rest : List PortInput), s.port.inputs = .command w :: rest → step s = .next t →
    t.port.inputs = rest ∧
    ∃ r : ResponseWord, t.port.responses = s.port.responses ++ [r] ∧
      r.getLsbD 3 = false ∧ r.extractLsb' 6 10 = 0#10 ∧ r.extractLsb' 48 16 = 0#16 ∧
      (r.extractLsb' 0 3 = match t.lastErr with
        | none => 0#3 | some .illegalCommand => 1#3 | some .invalidConfig => 2#3 | some .invalidInput => 3#3
        | some .invalidState => 4#3 | some .directionMismatch => 5#3) ∧
      (t.lastErr ≠ none → r.extractLsb' 4 2 = 0#2) ∧
      (r.extractLsb' 4 2 = 0#2 → r.extractLsb' 16 16 = 0#16) ∧
      (r.extractLsb' 4 2 = 1#2 → r.extractLsb' 24 8 = 0#8) ∧
      (r.extractLsb' 4 2 ≠ 2#2 → r.extractLsb' 32 16 = 0#16)

/-- `ERR_SEEN` is sticky: no command clears it, only the power-on reset does, and a rejection sets it (R33). -/
def Obligations.ErrSeenIsSticky : Prop :=
  ∀ (s t : State) (w : CommandWord) (rest : List PortInput), s.port.inputs = .command w :: rest → step s = .next t →
    (t.errSeen = true ↔ s.errSeen = true ∨ t.lastErr ≠ none)

/-- How a command may change `LC`, `MODE` and `DIR` (R32, R230, R235, R238): not at all, or OPEN opens a stream with no
direction, or CLOSE closes it, or the first data command locks the direction and keeps the mode. -/
def Obligations.LifecycleTransitions : Prop :=
  ∀ (i : Instr) (s t : State), exec i s = .next t →
    t.lc = s.lc ∨
    (∃ m md, i = .openStream m ∧ ¬ s.Streaming ∧ t.lc = .streaming md none) ∨
    (i = .close ∧ s.Streaming ∧ t.lc = .closed) ∨
    (∃ pcm md, i = .enc pcm ∧ s.lc = .streaming md none ∧ t.lc = .streaming md (some .encode)) ∨
    (∃ octet md, i = .dec octet ∧ s.lc = .streaming md none ∧ t.lc = .streaming md (some .decode))

/-! ## The blocks -/

/-- SUBTRA saturates the difference (R140, R180). -/
def Obligations.PredictionErrorSaturates : Prop :=
  ∀ (x : Int) (b : Band), subtra x b = max (-32768) (min 32767 (x - b.s))

/-- QUANTL (R141): the class is the first of 1..29 whose decision level is above the magnitude, else 30, so a
magnitude equal to a level belongs to the class above it; the code is read from ILN or ILP by the sign. -/
def Obligations.QuantlIsTheFirstLevelAbove : Prop :=
  ∀ el det : Int,
    let wd := if 0 ≤ el then el else -(el + 1)
    let level := fun i : Nat => (tabInt q6 i * 8 * det) / 32768
    ∃ mil : Nat, 1 ≤ mil ∧ mil ≤ 30 ∧ (∀ i, 1 ≤ i → i < mil → level i ≤ wd) ∧ (mil < 30 → wd < level mil) ∧
      quantl el det = if el < 0 then tabNat iln mil else tabNat ilp mil

/-- The codes of QUANTL (R97, R141): 32 to 61 for a non-negative difference; 63, 62 and 4 to 31 for a negative one;
never 0 to 3. -/
def Obligations.QuantlCodeRanges : Prop :=
  ∀ el det : Int,
    (0 ≤ el → 32 ≤ quantl el det ∧ quantl el det ≤ 61) ∧
    (el < 0 → 4 ≤ quantl el det ∧ quantl el det ≤ 31 ∨ quantl el det = 62 ∨ quantl el det = 63)

/-- QUANTH (R181): one threshold, and a magnitude equal to it is in the large class. -/
def Obligations.QuanthComparesWithOneThreshold : Prop :=
  ∀ eh det : Int,
    quanth eh det =
      if 0 ≤ eh then (if (4512 * det) / 32768 ≤ eh then 2 else 3)
      else (if (4512 * det) / 32768 ≤ -(eh + 1) then 0 else 1)

/-- The inverse quantizers scale a table entry by the step size and floor (R142, R143, R182), and what they give is
bounded while the step size is in its range (R29). -/
def Obligations.QuantizedDifferencesAreBounded : Prop :=
  ∀ (det : Int) (md : Mode) (il ril ih : Nat),
    invqal det ril = (det * tabInt qm4 ril) / 32768 ∧
    invqbl md det il =
      (det * (match md with | .mode1 => tabInt qm6 il | .mode2 => tabInt qm5 il | .mode3 => tabInt qm4 il)) / 32768 ∧
    invqah det ih = (det * tabInt qm2 ih) / 32768 ∧
    (0 ≤ det → det ≤ 16384 →
      Within 10228 (invqal det ril) ∧ Within 12404 (invqbl md det il) ∧ Within 3704 (invqah det ih))

/-- LOGSCL and LOGSCH (R144, R183): leak, add the delta of the code, clamp. -/
def Obligations.ScaleAccumulatorLeaksAndClamps : Prop :=
  ∀ (ril ih : Nat) (nb : Int),
    logscl ril nb = max 0 (min 18432 ((nb * 32512) / 32768 + tabInt wl (tabNat rl42 ril))) ∧
    logsch ih nb = max 0 (min 22528 ((nb * 32512) / 32768 + tabInt wh (tabNat rh2 ih)))

/-- SCALEL and SCALEH (R145, R184) in closed form on the range of `nb`, and the range of the step size (R27): only the
largest `nb` shifts to the left. -/
def Obligations.StepSizeFollowsTheAccumulator : Prop :=
  (∀ nb : Int, 0 ≤ nb → nb ≤ 18432 →
    scalel nb = (if nb = 18432 then 16384
      else 4 * (tabInt ilb ((nb / 64).toNat % 32) / 2 ^ (8 - (nb / 2048).toNat))) ∧
    32 ≤ scalel nb ∧ scalel nb ≤ 16384 ∧ scalel nb % 4 = 0) ∧
  (∀ nb : Int, 0 ≤ nb → nb ≤ 22528 →
    scaleh nb = (if nb = 22528 then 16384
      else 4 * (tabInt ilb ((nb / 64).toNat % 32) / 2 ^ (10 - (nb / 2048).toNat))) ∧
    8 ≤ scaleh nb ∧ scaleh nb ≤ 16384 ∧ scaleh nb % 4 = 0)

/-- ADAPT (R146 to R155): the value of every field of the band after it, in terms of the band before it. -/
def Obligations.AdaptGivesEveryField : Prop :=
  ∀ (dq : Int) (b : Band),
    let c16 := fun v : Int => max (-32768) (min 32767 v)
    let p := c16 (b.sz + dq)
    let t := adapt dq b
    let zero := fun di bi : Int =>
      c16 ((if dq = 0 then 0 else if (di < 0 ↔ dq < 0) then 128 else -128) + (bi * 32640) / 32768)
    let term := fun c v : Int => (c * c16 (2 * v)) / 32768
    t.det = b.det ∧ t.nb = b.nb ∧
    (t.d0 = dq ∧ t.d1 = dq ∧ t.d2 = b.d1 ∧ t.d3 = b.d2 ∧ t.d4 = b.d3 ∧ t.d5 = b.d4 ∧ t.d6 = b.d5) ∧
    (t.r0 = c16 (b.s + dq) ∧ t.r1 = c16 (b.s + dq) ∧ t.r2 = b.r1) ∧
    (t.p0 = p ∧ t.p1 = p ∧ t.p2 = b.p1) ∧
    t.a2 = max (-12288) (min 12288
      (c16 (if (p < 0 ↔ b.p1 < 0) then -(c16 (4 * b.a1)) else c16 (4 * b.a1)) / 128
        + (if (p < 0 ↔ b.p2 < 0) then 128 else -128) + (b.a2 * 32512) / 32768)) ∧
    t.a1 = max (-(15360 - t.a2)) (min (15360 - t.a2)
      (c16 ((if (p < 0 ↔ b.p1 < 0) then 192 else -192) + (b.a1 * 32640) / 32768))) ∧
    (t.b1 = zero b.d1 b.b1 ∧ t.b2 = zero b.d2 b.b2 ∧ t.b3 = zero b.d3 b.b3 ∧
      t.b4 = zero b.d4 b.b4 ∧ t.b5 = zero b.d5 b.b5 ∧ t.b6 = zero b.d6 b.b6) ∧
    t.sp = c16 (term t.a1 t.r1 + term t.a2 t.r2) ∧
    t.sz = c16 (c16 (c16 (c16 (c16 (c16 (term t.b1 t.d1) + term t.b2 t.d2) + term t.b3 t.d3) + term t.b4 t.d4)
      + term t.b5 t.d5) + term t.b6 t.d6) ∧
    t.s = c16 (t.sp + t.sz)

/-- After every adaptation, from any band whatever, the pole coefficients are inside their bounds (R28). -/
def Obligations.PoleCoefficientsStayStable : Prop :=
  ∀ (dq : Int) (b : Band), |(adapt dq b).a2| ≤ 12288 ∧ |(adapt dq b).a1| ≤ 15360 - (adapt dq b).a2

/-- One tick of each band operation (R156, R157, R185, R186): the core code, the code or output returned, and the new
`nb`, `det` and difference; the difference uses the old `det`, the output the old prediction. -/
def Obligations.BandOperationsOfOneTick : Prop :=
  ∀ (x : Int) (md : Mode) (il ih : Nat) (b : Band),
    let il6 := quantl (subtra x b) b.det
    (lbEncode x md b).1 = il6 / 2 ^ (6 - md.width) ∧
    (lbEncode x md b).2 = adapt ((b.det * tabInt qm4 (il6 / 4)) / 32768)
      { b with nb := logscl (il6 / 4) b.nb, det := scalel (logscl (il6 / 4) b.nb) } ∧
    (lbDecode il md b).1 = max (-32768) (min 32767 (b.s + invqbl md b.det il)) ∧
    (lbDecode il md b).2 = adapt ((b.det * tabInt qm4 (il / 2 ^ (md.width - 4))) / 32768)
      { b with nb := logscl (il / 2 ^ (md.width - 4)) b.nb
               det := scalel (logscl (il / 2 ^ (md.width - 4)) b.nb) } ∧
    (hbEncode x b).1 = quanth (subtra x b) b.det ∧
    (hbEncode x b).2 = (hbDecode (hbEncode x b).1 b).2 ∧
    (hbDecode ih b).1 = max (-32768) (min 32767 (b.s + (b.det * tabInt qm2 ih) / 32768)) ∧
    (hbDecode ih b).2 = adapt ((b.det * tabInt qm2 ih) / 32768)
      { b with nb := logsch ih b.nb, det := scaleh (logsch ih b.nb) }

/-- R158: over any run of samples a decoder of the same or a smaller width, given the encoder's codes truncated to its
width, holds the encoder's band state after every tick. -/
def Obligations.LowDecoderTracksTheEncoder : Prop :=
  ∀ (enc dec : Mode), dec.width ≤ enc.width → ∀ (xs : List Int) (l : Band),
    let tick := fun (p : Band × Band) (x : Int) =>
      ((lbEncode x enc p.1).2, (lbDecode ((lbEncode x enc p.1).1 >>> (enc.width - dec.width)) dec p.2).2)
    (xs.foldl tick (l, l)).2 = (xs.foldl tick (l, l)).1

/-- R241: an encode core and a decode core in one mode that hold the same bands stay so. A sample that returns no octet
leaves the bands equal, and one that returns an octet leaves them equal once the other core has decoded it; in both
cases the cores are again an encode and a decode stream of that mode, so the relation holds for the next sample. -/
def Obligations.CoresStayInStepOnEveryOctet : Prop :=
  ∀ (s t : State) (pcm : Int) (md : Mode) (ds dt : Option Direction),
    s.lc = .streaming md ds → ds ≠ some .decode → t.lc = .streaming md dt → dt ≠ some .encode →
    s.dsp.low = t.dsp.low → s.dsp.high = t.dsp.high →
    ∃ s', exec (.enc pcm) s = .next s' ∧ s'.lc = .streaming md (some .encode) ∧
      (s.dsp.analysis.phase = false →
        s'.port.responses = s.port.responses ++ [0#64] ∧ s'.dsp.analysis.phase = true ∧
          s'.dsp.low = t.dsp.low ∧ s'.dsp.high = t.dsp.high) ∧
      (s.dsp.analysis.phase = true → ∃ t' octet, octet ≤ 255 ∧
        s'.port.responses = s.port.responses ++ [(BitVec.ofNat 64 octet <<< 16) ||| 0x10#64] ∧
        s'.dsp.analysis.phase = false ∧ exec (.dec octet) t = .next t' ∧ t'.lastErr = none ∧
        t'.lc = .streaming md (some .decode) ∧ s'.dsp.low = t'.dsp.low ∧ s'.dsp.high = t'.dsp.high)

/-- Mode isolation (R242): two encode streams that differ in the mode alone have the same DSP state after every sample,
the same high code, and low codes that are the same 6-bit code with its low bits dropped; two decoders given the
same core code have the same low-band state. -/
def Obligations.ModeChangesOnlyTheLowCode : Prop :=
  (∀ (s t : State) (pcm : Int) (m n : Mode) (ds dt : Option Direction),
    s.lc = .streaming m ds → ds ≠ some .decode → t.lc = .streaming n dt → dt ≠ some .decode → s.dsp = t.dsp →
    ∃ s' t', exec (.enc pcm) s = .next s' ∧ exec (.enc pcm) t = .next t' ∧ s'.dsp = t'.dsp ∧
      (s.dsp.analysis.phase = true →
        ∃ il6 ih, il6 < 64 ∧ ih < 4 ∧
          s'.port.responses = s.port.responses ++
            [(BitVec.ofNat 64 (il6 / 2 ^ (6 - m.width) + 2 ^ m.width * ih) <<< 16) ||| 0x10#64] ∧
          t'.port.responses = t.port.responses ++
            [(BitVec.ofNat 64 (il6 / 2 ^ (6 - n.width) + 2 ^ n.width * ih) <<< 16) ||| 0x10#64])) ∧
  (∀ (m n : Mode) (i j : Nat) (l : Band), i / 2 ^ (m.width - 4) = j / 2 ^ (n.width - 4) →
    (lbDecode i m l).2 = (lbDecode j n l).2)

/-- The packer and the unpacker agree in every mode, the octet fits in 8 bits and its padding is 0 (R93, R232, R234). -/
def Obligations.UnpackInvertsPack : Prop :=
  ∀ (md : Mode) (il ih : Nat), il < 2 ^ md.width → ih < 4 →
    unpack (pack il ih md) md = { il := il, ih := ih, pad := 0 } ∧ pack il ih md < 4 * 2 ^ md.width ∧
      pack il ih md ≤ 255

/-- ANALYSIS_OUT (R211, R212): the two sums, the shift by 13, and the two clamps, of which the high band's is
asymmetric. A constant register `c` gives `(clamp c, 0)`. -/
def Obligations.AnalysisSplitsTheRegister : Prop :=
  (∀ x : ShiftReg 24,
    let e := ∑ i ∈ Finset.range 12, x.get (2 * i) * tabInt qmfH (2 * i)
    let o := ∑ i ∈ Finset.range 12, x.get (2 * i + 1) * tabInt qmfH (2 * i + 1)
    analysisOut x =
      (max (-16384) (min 16383 ((e + o) / 8192)), max (-16383) (min 16383 ((e - o) / 8192)))) ∧
  (∀ c : Int, analysisOut (ShiftReg.const 24 c) = (max (-16384) (min 16383 c), 0))

/-- SYNTHESIS_PUSH and SYNTHESIS_OUT (R213, R214): the difference and the sum enter clamped, every other element moves
up by one, and the outputs are the clamped filter sums shifted by 12, the even one first (R215). -/
def Obligations.SynthesisJoinsThePair : Prop :=
  ∀ (rl rh : Int) (y : Synthesis),
    let c14 := fun v : Int => max (-16384) (min 16383 v)
    let z := (synthesisPush rl rh y).2
    z.xd.get 0 = c14 (rl - rh) ∧ z.xs.get 0 = c14 (rl + rh) ∧
    (∀ k, k < 11 → z.xd.get (k + 1) = y.xd.get k ∧ z.xs.get (k + 1) = y.xs.get k) ∧
    (synthesisPush rl rh y).1 =
      (c14 ((∑ i ∈ Finset.range 12, z.xd.get i * tabInt qmfH (2 * i)) / 4096),
       c14 ((∑ i ∈ Finset.range 12, z.xs.get i * tabInt qmfH (2 * i + 1)) / 4096))

/-- Every row of R116: no inner value leaves 32 bits while the fields are in their ranges. -/
def Obligations.InnerValuesFitIn32Bits : Prop :=
  (∀ x : ShiftReg 24, (∀ v ∈ x.taps, Fits16 v) →
    |sumEven x + sumOdd x| ≤ 424804352 ∧ |sumEven x - sumOdd x| ≤ 424804352) ∧
  (∀ x : ShiftReg 12, (∀ v ∈ x.taps, Fits15 v) →
    |sumTo 12 (fun i => x.get i * tabInt qmfH (2 * i))| ≤ 106201088 ∧
    |sumTo 12 (fun i => x.get i * tabInt qmfH (2 * i + 1))| ≤ 106201088) ∧
  (∀ (det : Int) (i : Nat) (md : Mode), 0 ≤ det → det ≤ 16384 →
    |shl (tabInt q6 i) 3 * det| ≤ 382599168 ∧ |det * tabInt qm4 i| ≤ 406454272 ∧
    |det * tabInt (invqblTable md) i| ≤ 406454272) ∧
  (∀ nb : Int, 0 ≤ nb → nb ≤ 22528 → |nb * nbLeak| ≤ 732430336) ∧
  (∀ a : Int, Fits16 a → |a * leak255| ≤ 1069547520 ∧ |a * a2Leak| ≤ 1069547520) ∧
  (∀ a v : Int, Fits16 a → |a * clamp16 (v + v)| ≤ 1073741824)

/-- Every table index the core forms is inside its table (R134). -/
def Obligations.TableIndicesAreInRange : Prop :=
  (∀ el det : Int, 1 ≤ quantlClass el det ∧ quantlClass el det ≤ 30 ∧ 1 ≤ quanthClass el det ∧ quanthClass el det ≤ 2 ∧
    quantl el det < qm6.length ∧ quantl el det / 2 < qm5.length ∧ quantl el det / 4 < qm4.length ∧
    quantl el det / 4 < rl42.length ∧ quanth el det < qm2.length ∧ quanth el det < rh2.length) ∧
  (∀ (octet : Nat) (md : Mode),
    (unpack octet md).il < (invqblTable md).length ∧ (unpack octet md).il / 2 ^ (md.width - 4) < qm4.length ∧
    (unpack octet md).il / 2 ^ (md.width - 4) < rl42.length ∧ (unpack octet md).ih < qm2.length ∧
    (unpack octet md).ih < rh2.length) ∧
  (∀ i, i < rl42.length → tabNat rl42 i < wl.length) ∧
  (∀ i, i < rh2.length → 1 ≤ tabNat rh2 i ∧ tabNat rh2 i ≤ 2) ∧ wh.length = 3 ∧
  (∀ nb : Int, lowBits (asr nb 6) 5 < ilb.length) ∧
  q6.length = 32 ∧ iln.length = 32 ∧ ilp.length = 32 ∧ ihn.length = 3 ∧ ihp.length = 3 ∧ qmfH.length = 24

/-- The cross-checks (a) to (g) that tie the tables to each other and to the source's literals (R133). -/
def Obligations.TablesAgreeWithEachOther : Prop :=
  ((List.range 29).map (fun i => tabInt q6 (i + 1) * 8) =
    [280, 576, 880, 1200, 1520, 1864, 2208, 2584, 2960, 3376, 3784, 4240, 4696, 5200, 5712, 6288, 6864, 7520, 8184,
      8968, 9752, 10712, 11664, 12896, 14120, 15840, 17560, 20456, 23352]) ∧
  qm5.filter (fun v => 0 < v) = ((List.range 15).map (fun k => tabInt q6 (2 * k + 1) * 8)).reverse ∧
  qm4.filter (fun v => 0 < v) = ((List.range 7).map (fun k => tabInt q6 (4 * k + 4) * 8)).reverse ∧
  (∀ m < 30, 1 ≤ m → tabInt q6 (m - 1) * 8 ≤ tabInt qm6 (tabNat ilp m) ∧ tabInt qm6 (tabNat ilp m) < tabInt q6 m * 8) ∧
  tabInt qm6 (tabNat ilp 30) = 24808 ∧
  (∀ m < 31, 1 ≤ m → tabInt qm6 (tabNat iln m) = -tabInt qm6 (tabNat ilp m)) ∧
  (∀ c < 64, 4 ≤ c →
    0 ≤ tabInt qm5 (c / 2) * tabInt qm6 c ∧ 0 ≤ tabInt qm4 (c / 4) * tabInt qm6 c) ∧
  (∀ c < 16, ∀ d < 16, |tabInt qm4 c| < |tabInt qm4 d| → tabNat rl42 c < tabNat rl42 d) ∧
  tabNat rl42 0 = 0 ∧ tabNat rl42 15 = 0 ∧
  (∀ i < 7, tabInt wl i < tabInt wl (i + 1)) ∧
  ((List.range 4).map (fun c => tabInt wh (tabNat rh2 c)) = [798, -214, 798, -214]) ∧
  scalel 0 = 32 ∧ scaleh 0 = 8

/-! ## Invariants and whole-machine rules -/

/-- The reset state meets the invariant (R38). -/
def Obligations.ResetMeetsTheInvariant : Prop := State.reset.Inv

/-- Every step, on whatever input, keeps the invariant: the ranges of R24 and R27 to R31, `det` the step size of `nb`,
the copies of R26, the filters the direction does not use as OPEN left them, and `ERR_SEEN` set under an error. -/
def Obligations.StepKeepsTheInvariant : Prop :=
  ∀ s t : State, s.Inv → step s = .next t → t.Inv

/-- No command reads a DSP field while it holds no value (R23, R291): two states that differ only in such content step to
states that differ only in such content, with the same responses. -/
def Obligations.UnheldContentIsNeverRead : Prop :=
  ∀ s t s' : State, s.SameHeld t → step s = .next s' → ∃ t', step t = .next t' ∧ s'.SameHeld t'

/-- The examples of R231 and R233 after `OPEN 1`: `ENC 0` twice returns `NONE` and the octet 0xFA; `DEC 0xFA` returns the
samples 0 and -1. -/
def Obligations.FirstTicksOfAModeOneStream : Prop :=
  ∀ s : State, s.lc = .streaming .mode1 none → s.dsp = Dsp.streamStart →
    (∃ t u, exec (.enc 0) s = .next t ∧ exec (.enc 0) t = .next u ∧
      u.port.responses = s.port.responses ++ [0x0#64, 0x0000000000FA0010#64]) ∧
    (∃ t, exec (.dec 0xFA) s = .next t ∧ t.port.responses = s.port.responses ++ [0x0000FFFF00000020#64])

/-- Silence (R244, V-E2). The first clause is R244's octet in each mode, on ticks 0 to 43, which covers the 80 samples of
V-E2; the second is the octet of tick 44, another one, where FILTEP's floor of a negative `a2` term first makes the
prediction -1 (R148, R152). So the block rules contradict "on every output tick" in R244, a rule derived from them; the
block rules are followed. The third clause decodes the constant octet for 45 ticks: the 88 samples of ticks 0 to 43
are those of R244, and the first of tick 44 is 0 for its 1 in Mode1 and Mode3, and -1 for its 0 in Mode2, against "1 from
the 23rd sample onward" and "all zero". Log entry 7. -/
def Obligations.SilenceHoldsItsCodeForFortyFourTicks : Prop :=
  let octet := fun (md : Mode) (n : Nat) =>
    (encodeTick md (0, 0) (Nat.rec Dsp.streamStart (fun _ d => (encodeTick md (0, 0) d).2) n)).1
  let decoded := fun (md : Mode) (il ih : Nat) =>
    ((List.replicate 45 ()).foldl (fun (p : List Int × Dsp) _ =>
      let y := decodeTick md il ih p.2
      (p.1 ++ [y.1.1, y.1.2], y.2)) ([], Dsp.streamStart)).1
  (∀ n < 44, octet .mode1 n = 0xFA ∧ octet .mode2 n = 0x7D ∧ octet .mode3 n = 0x3E) ∧
  (octet .mode1 44 = 0xF7 ∧ octet .mode2 44 = 0x7B ∧ octet .mode3 44 = 0x3D) ∧
  (decoded .mode1 58 3 = [0, -1, -1, 0, 0, -1, 0, 0, -1, -1, 0, 0, 1, 1, 0, 0, 1, 0, 0, 1, 1, 0, 1, 1]
      ++ List.replicate 64 1 ++ [0, 1] ∧
    decoded .mode3 14 3 = decoded .mode1 58 3 ∧ decoded .mode2 29 3 = List.replicate 88 0 ++ [-1, 0])

end
end

