-- ==== Sys2Proof/Laws/Arith.lean ====
section
/-! SUPPORT. The small lemmas of the operators of R14: what a clamp bounds, when it changes nothing, and what a
right shift of a bounded value is. -/

namespace Sys2Proof.Machine

theorem asr_def (v : Int) (n : Nat) : asr v n = v / ((2 ^ n : Nat) : Int) := rfl

theorem shl_def (v : Int) (n : Nat) : shl v n = v * ((2 ^ n : Nat) : Int) := rfl

/-- The shift by 15 every scaled product ends in. -/
theorem asr_15 (v : Int) : asr v 15 = v / 32768 := rfl

theorem clamp_le {lo hi v : Int} (h : lo ≤ hi) : clamp lo hi v ≤ hi := by
  unfold clamp; split <;> [exact h; split <;> omega]

theorem le_clamp {lo hi v : Int} (h : lo ≤ hi) : lo ≤ clamp lo hi v := by
  unfold clamp; split <;> [exact le_rfl; split <;> omega]

/-- A clamp leaves a value inside its range as it is. -/
theorem clamp_of_mem {lo hi v : Int} (h₁ : lo ≤ v) (h₂ : v ≤ hi) : clamp lo hi v = v := by
  unfold clamp; rw [if_neg (by omega), if_neg (by omega)]

theorem clamp_eq_max_min {lo hi v : Int} (h : lo ≤ hi) : clamp lo hi v = max lo (min hi v) := by
  unfold clamp; split <;> [skip; split] <;> omega

theorem fits16_clamp16 (v : Int) : Fits16 (clamp16 v) := ⟨le_clamp (by decide), clamp_le (by decide)⟩

theorem fits15_clamp14 (v : Int) : Fits15 (clamp14 v) := ⟨le_clamp (by decide), clamp_le (by decide)⟩

theorem clamp16_of_fits16 {v : Int} (h : Fits16 v) : clamp16 v = v := clamp_of_mem h.1 h.2

theorem clamp16_zero : clamp16 0 = 0 := by decide

theorem neg_iff (v : Int) : neg v = true ↔ v < 0 := by simp [neg]

/-- Two values agree in sign when both are negative or both are not (R115). -/
theorem neg_eq_neg_iff (v w : Int) : neg v = neg w ↔ (v < 0 ↔ w < 0) := by
  simp [neg, decide_eq_decide]

theorem magnitude_nonneg (e : Int) : 0 ≤ magnitude e := by unfold magnitude; split <;> omega

theorem magnitude_le {e : Int} (h : Fits16 e) : magnitude e ≤ 32767 := by
  obtain ⟨_, _⟩ := h; unfold magnitude; split <;> omega

/-- A product of two bounded values, whatever their signs (R114, R116). -/
theorem mul_within {x y m n : Int} (hx : Within m x) (hy : Within n y) : Within (m * n) (x * y) := by
  obtain ⟨hx₁, hx₂⟩ := hx
  obtain ⟨hy₁, hy₂⟩ := hy
  have h := abs_mul x y
  have h₁ : |x| ≤ m := abs_le.mpr ⟨hx₁, hx₂⟩
  have h₂ : |y| ≤ n := abs_le.mpr ⟨hy₁, hy₂⟩
  have h₃ : |x * y| ≤ m * n := by
    rw [h]; exact mul_le_mul h₁ h₂ (abs_nonneg _) ((abs_nonneg _).trans h₁)
  exact abs_le.mp h₃

/-- A sum whose terms are bounded by `g` is bounded by the sum of `g`. -/
theorem sumTo_within (n : Nat) {f g : Nat → Int} (h : ∀ i, i < n → Within (g i) (f i)) :
    Within (sumTo n g) (sumTo n f) := by
  induction n with
  | zero => exact ⟨le_rfl, le_rfl⟩
  | succ n ih =>
    obtain ⟨h₁, h₂⟩ := ih (fun i hi => h i (Nat.lt_succ_of_lt hi))
    obtain ⟨h₃, h₄⟩ := h n (Nat.lt_succ_self n)
    constructor <;> simp only [sumTo] <;> omega

theorem sumTo_congr (n : Nat) {f g : Nat → Int} (h : ∀ i, i < n → f i = g i) : sumTo n f = sumTo n g := by
  induction n with
  | zero => rfl
  | succ n ih => simp only [sumTo, ih (fun i hi => h i (Nat.lt_succ_of_lt hi)), h n (Nat.lt_succ_self n)]

theorem sumTo_mul_left (n : Nat) (c : Int) (f : Nat → Int) : sumTo n (fun i => c * f i) = c * sumTo n f := by
  induction n with
  | zero => simp [sumTo]
  | succ n ih => simp only [sumTo, ih]; ring

/-- The sum as the library writes it. -/
theorem sumTo_eq_sum (n : Nat) (f : Nat → Int) : sumTo n f = ∑ i ∈ Finset.range n, f i := by
  induction n with
  | zero => rfl
  | succ n ih => rw [sumTo, ih, Finset.sum_range_succ]

end Sys2Proof.Machine
end

