-- ==== Sys2Proof/Laws/ShiftReg.lean ====
section
/-! SUPPORT. Reading a shift register after a push (R210, R213): the new element is the most recent, and every
other moves up by one. -/

namespace Sys2Proof.Machine

@[ext] theorem ShiftReg.ext_taps {n : Nat} {x y : ShiftReg n} (h : x.taps = y.taps) : x = y := by
  cases x; cases y; cases h; rfl

@[simp] theorem ShiftReg.push_get_zero {n : Nat} (v : Int) (x : ShiftReg (n + 1)) : (x.push v).get 0 = v := by
  simp [ShiftReg.get, ShiftReg.push]

theorem ShiftReg.push_get_succ {n : Nat} (v : Int) (x : ShiftReg n) {k : Nat} (h : k + 1 < n) :
    (x.push v).get (k + 1) = x.get k := by
  simp [ShiftReg.get, ShiftReg.push, List.getD_eq_getElem?_getD, h]

theorem ShiftReg.const_get {n : Nat} (v : Int) {k : Nat} (h : k < n) : (ShiftReg.const n v).get k = v := by
  simp [ShiftReg.get, ShiftReg.const, List.getD_eq_getElem?_getD, h]

/-- An element read inside the register is one of its elements. -/
theorem ShiftReg.get_mem {n : Nat} (x : ShiftReg n) {k : Nat} (h : k < n) : x.get k ∈ x.taps := by
  have hk : k < x.taps.length := by rw [x.size]; exact h
  simp only [ShiftReg.get, List.getD_eq_getElem?_getD, List.getElem?_eq_getElem hk, Option.getD_some]
  exact List.getElem_mem hk

/-- A property of the new element and of every element before is one of every element after. -/
theorem ShiftReg.forall_push {n : Nat} {P : Int → Prop} {v : Int} {x : ShiftReg n} (hv : P v)
    (hx : ∀ w ∈ x.taps, P w) : ∀ w ∈ (x.push v).taps, P w := by
  intro w hw
  rcases List.mem_cons.mp (List.mem_of_mem_take hw) with rfl | h
  · exact hv
  · exact hx w h

theorem ShiftReg.forall_const {n : Nat} {P : Int → Prop} {v : Int} (hv : P v) :
    ∀ w ∈ (ShiftReg.const n v).taps, P w := by
  intro w hw
  rw [List.eq_of_mem_replicate hw]; exact hv

end Sys2Proof.Machine
end

