-- ==== Sys2Proof/Laws/Tables.lean ====
section
/-! SUPPORT. The largest magnitude of each table, and the range of each map to an index or a code (R29, R116,
R134). Each holds for every index, because a lookup outside a table answers 0. -/

namespace Sys2Proof.Machine

/-- A bound on every entry of a table bounds every lookup. -/
theorem tabInt_within {t : List Int} {m : Int} (hm : 0 ≤ m) (h : ∀ v ∈ t, -m ≤ v ∧ v ≤ m) (i : Nat) :
    Within m (tabInt t i) := by
  unfold tabInt
  rw [List.getD_eq_getElem?_getD]
  cases hi : t[i]? with
  | none => exact ⟨by simpa using hm, by simpa using hm⟩
  | some v => exact h v (List.mem_of_getElem? hi)

/-- A bound on every entry of a map bounds every lookup. -/
theorem tabNat_le {t : List Nat} {m : Nat} (h : ∀ v ∈ t, v ≤ m) (i : Nat) : tabNat t i ≤ m := by
  unfold tabNat
  rw [List.getD_eq_getElem?_getD]
  cases hi : t[i]? with
  | none => simp
  | some v => exact h v (List.mem_of_getElem? hi)

theorem qm4_within (i : Nat) : Within 20456 (tabInt qm4 i) := tabInt_within (by decide) (by decide) i
theorem qm5_within (i : Nat) : Within 23352 (tabInt qm5 i) := tabInt_within (by decide) (by decide) i
theorem qm6_within (i : Nat) : Within 24808 (tabInt qm6 i) := tabInt_within (by decide) (by decide) i
theorem qm2_within (i : Nat) : Within 7408 (tabInt qm2 i) := tabInt_within (by decide) (by decide) i
theorem q6_within (i : Nat) : Within 2919 (tabInt q6 i) := tabInt_within (by decide) (by decide) i

theorem rl42_le (i : Nat) : tabNat rl42 i ≤ 7 := tabNat_le (by decide) i
theorem rh2_le (i : Nat) : tabNat rh2 i ≤ 2 := tabNat_le (by decide) i
theorem iln_le (i : Nat) : tabNat iln i ≤ 63 := tabNat_le (by decide) i
theorem ilp_le (i : Nat) : tabNat ilp i ≤ 63 := tabNat_le (by decide) i
theorem ihn_le (i : Nat) : tabNat ihn i ≤ 3 := tabNat_le (by decide) i
theorem ihp_le (i : Nat) : tabNat ihp i ≤ 3 := tabNat_le (by decide) i

/-- INVQBL's table in each mode stays within the largest level of QM6. -/
theorem invqblTable_within (m : Mode) (i : Nat) : Within 24808 (tabInt (invqblTable m) i) := by
  cases m
  · exact qm6_within i
  · exact ⟨by have := (qm5_within i).1; simp only [invqblTable]; omega,
      by have := (qm5_within i).2; simp only [invqblTable]; omega⟩
  · exact ⟨by have := (qm4_within i).1; simp only [invqblTable]; omega,
      by have := (qm4_within i).2; simp only [invqblTable]; omega⟩

end Sys2Proof.Machine
end

