-- ==== Sys2Proof/Laws/Adapt.lean ====
section
/-! SUPPORT. What ADAPT leaves in every field (R146 to R155), the ranges its results keep (R28), and the range of
the step size (R27). -/

namespace Sys2Proof.Machine

@[simp] theorem adapt_det (dq) (b : Band) : (adapt dq b).det = b.det := by cases b; rfl
@[simp] theorem adapt_nb (dq) (b : Band) : (adapt dq b).nb = b.nb := by cases b; rfl
@[simp] theorem adapt_d0 (dq) (b : Band) : (adapt dq b).d0 = dq := rfl
@[simp] theorem adapt_d1 (dq) (b : Band) : (adapt dq b).d1 = dq := rfl
@[simp] theorem adapt_d2 (dq) (b : Band) : (adapt dq b).d2 = b.d1 := rfl
@[simp] theorem adapt_d3 (dq) (b : Band) : (adapt dq b).d3 = b.d2 := rfl
@[simp] theorem adapt_d4 (dq) (b : Band) : (adapt dq b).d4 = b.d3 := rfl
@[simp] theorem adapt_d5 (dq) (b : Band) : (adapt dq b).d5 = b.d4 := rfl
@[simp] theorem adapt_d6 (dq) (b : Band) : (adapt dq b).d6 = b.d5 := rfl
@[simp] theorem adapt_r0 (dq) (b : Band) : (adapt dq b).r0 = clamp16 (b.s + dq) := rfl
@[simp] theorem adapt_r1 (dq) (b : Band) : (adapt dq b).r1 = clamp16 (b.s + dq) := rfl
@[simp] theorem adapt_r2 (dq) (b : Band) : (adapt dq b).r2 = b.r1 := rfl
@[simp] theorem adapt_p0 (dq) (b : Band) : (adapt dq b).p0 = clamp16 (b.sz + dq) := rfl
@[simp] theorem adapt_p1 (dq) (b : Band) : (adapt dq b).p1 = clamp16 (b.sz + dq) := rfl
@[simp] theorem adapt_p2 (dq) (b : Band) : (adapt dq b).p2 = b.p1 := rfl
@[simp] theorem adapt_a2 (dq) (b : Band) : (adapt dq b).a2 = uppol2 (adaptSignals dq b) := by
  simp only [adapt, predic, filtez, filtep, adaptCoefs, delaya]
@[simp] theorem adapt_a1 (dq) (b : Band) :
    (adapt dq b).a1 = uppol1 (uppol2 (adaptSignals dq b)) (adaptSignals dq b) := by
  simp only [adapt, predic, filtez, filtep, adaptCoefs, delaya]
@[simp] theorem adapt_b1 (dq) (b : Band) : (adapt dq b).b1 = upzero dq b.d1 b.b1 := rfl
@[simp] theorem adapt_b2 (dq) (b : Band) : (adapt dq b).b2 = upzero dq b.d2 b.b2 := rfl
@[simp] theorem adapt_b3 (dq) (b : Band) : (adapt dq b).b3 = upzero dq b.d3 b.b3 := rfl
@[simp] theorem adapt_b4 (dq) (b : Band) : (adapt dq b).b4 = upzero dq b.d4 b.b4 := rfl
@[simp] theorem adapt_b5 (dq) (b : Band) : (adapt dq b).b5 = upzero dq b.d5 b.b5 := rfl
@[simp] theorem adapt_b6 (dq) (b : Band) : (adapt dq b).b6 = upzero dq b.d6 b.b6 := rfl

/-- FILTEP reads the new coefficients and the new reconstructed signal (R152). -/
theorem adapt_sp (dq) (b : Band) :
    (adapt dq b).sp =
      clamp16 (filterTerm (adapt dq b).a1 (adapt dq b).r1 + filterTerm (adapt dq b).a2 (adapt dq b).r2) := by
  simp only [adapt, predic, filtez, filtep]

/-- FILTEZ reads the new coefficients and the shifted differences (R153). -/
theorem adapt_sz (dq) (b : Band) :
    (adapt dq b).sz =
      clamp16 (clamp16 (clamp16 (clamp16 (clamp16 (clamp16 (0
        + filterTerm (adapt dq b).b1 (adapt dq b).d1) + filterTerm (adapt dq b).b2 (adapt dq b).d2)
        + filterTerm (adapt dq b).b3 (adapt dq b).d3) + filterTerm (adapt dq b).b4 (adapt dq b).d4)
        + filterTerm (adapt dq b).b5 (adapt dq b).d5) + filterTerm (adapt dq b).b6 (adapt dq b).d6) := by
  simp only [adapt, predic, filtez, filtep, List.foldl]

/-- PREDIC (R154). -/
theorem adapt_s (dq) (b : Band) : (adapt dq b).s = clamp16 ((adapt dq b).sp + (adapt dq b).sz) := by
  simp only [adapt, predic]

theorem uppol2_within (b : Band) : Within 12288 (uppol2 b) := ⟨le_clamp (by decide), clamp_le (by decide)⟩

/-- The bound of `a1` follows the new `a2` (R149). -/
theorem uppol1_within {apl2 : Int} (h : Within 12288 apl2) (b : Band) : Within (15360 - apl2) (uppol1 apl2 b) := by
  obtain ⟨_, _⟩ := h
  exact ⟨le_clamp (by omega), clamp_le (by omega)⟩

theorem upzero_fits16 (dq di bi : Int) : Fits16 (upzero dq di bi) := fits16_clamp16 _

/-- The step size as a function of `nb >> 6` alone, because `nb >> 11 = (nb >> 6) >> 5` (R145, R184). -/
def scaleAt (base : Int) (q : Nat) : Int :=
  let wd2 := base - ((q / 32 : Nat) : Int)
  let wd3 := if 0 ≤ wd2 then asr (tabInt ilb (q % 32)) wd2.toNat else shl (tabInt ilb (q % 32)) (-wd2).toNat
  shl wd3 2

theorem scale_eq_scaleAt (base : Int) {nb : Int} (h : 0 ≤ nb) : scale base nb = scaleAt base (nb / 64).toNat := by
  have hq : asr nb 6 = ((nb / 64).toNat : Int) := by rw [asr_def]; omega
  have h₁ : asr nb 11 = (((nb / 64).toNat / 32 : Nat) : Int) := by rw [asr_def]; omega
  have h₂ : lowBits (asr nb 6) 5 = (nb / 64).toNat % 32 := by rw [hq]; unfold lowBits; omega
  simp only [scale, scaleAt, h₁, h₂]

theorem scaleAt_low : ∀ q < 289, 32 ≤ scaleAt 8 q ∧ scaleAt 8 q ≤ 16384 ∧ scaleAt 8 q % 4 = 0 := by
  decide +kernel

theorem scaleAt_high : ∀ q < 353, 8 ≤ scaleAt 10 q ∧ scaleAt 10 q ≤ 16384 ∧ scaleAt 10 q % 4 = 0 := by
  decide +kernel

/-- The range of the low-band step size (R27). -/
theorem scale_low {nb : Int} (h₁ : 0 ≤ nb) (h₂ : nb ≤ 18432) :
    32 ≤ scale 8 nb ∧ scale 8 nb ≤ 16384 ∧ scale 8 nb % 4 = 0 := by
  rw [scale_eq_scaleAt 8 h₁]; exact scaleAt_low _ (by omega)

/-- The range of the high-band step size (R27). -/
theorem scale_high {nb : Int} (h₁ : 0 ≤ nb) (h₂ : nb ≤ 22528) :
    8 ≤ scale 10 nb ∧ scale 10 nb ≤ 16384 ∧ scale 10 nb % 4 = 0 := by
  rw [scale_eq_scaleAt 10 h₁]; exact scaleAt_high _ (by omega)

/-- A quantized difference stays within half its table's largest level (R29). -/
theorem scaled_within {det q m : Int} (h₁ : 0 ≤ det) (h₂ : det ≤ 16384) (hq : Within (2 * m) q) :
    Within m (asr (det * q) 15) := by
  have hp : Within (16384 * (2 * m)) (det * q) := mul_within ⟨by omega, h₂⟩ hq
  obtain ⟨h₃, h₄⟩ := hp
  rw [asr_15]
  constructor <;> omega

/-- ADAPT keeps the invariant of a band whose scale fields already meet it (R24, R26, R28, R29). -/
theorem adapt_inv {k : BandKind} {dq : Int} {b : Band}
    (hnb : 0 ≤ b.nb ∧ b.nb ≤ k.nbMax) (hdet : b.det = scale k.base b.nb)
    (hrange : k.detMin ≤ b.det ∧ b.det ≤ 16384) (hmul : b.det % 4 = 0)
    (hdq : Within k.dMax dq)
    (hd : Within k.dMax b.d1 ∧ Within k.dMax b.d2 ∧ Within k.dMax b.d3 ∧ Within k.dMax b.d4 ∧ Within k.dMax b.d5)
    (hr : Fits16 b.r1) (hp : Fits16 b.p1) : (adapt dq b).Inv k where
  nbRange := by simpa using hnb
  detOfNb := by simpa using hdet
  detRange := by simpa using hrange
  detMultiple := by simpa using hmul
  a2Range := by simpa using uppol2_within _
  a1Range := by simpa using uppol1_within (uppol2_within _) _
  bRange := by simp [upzero_fits16]
  dRange := by simp [hdq, hd]
  rRange := by simp [fits16_clamp16, hr]
  pRange := by simp [fits16_clamp16, hp]
  predRange := by simp [adapt_sp, adapt_sz, adapt_s, fits16_clamp16]
  copies := by simp

end Sys2Proof.Machine
end

