-- ==== Sys2Proof/Laws/Bands.lean ====
section
/-! SUPPORT. What one tick does to a band: the ranges of the quantizers (R141, R181), and the invariant every tick
keeps (R24 to R29). -/

namespace Sys2Proof.Machine

/-- What the search of QUANTL answers: the first index in its range whose level is above `wd`, else 30 (R141). -/
theorem quantlSearch_spec (wd det : Int) (fuel i : Nat) :
    (∃ j, i ≤ j ∧ j < i + fuel ∧ quantlSearch wd det fuel i = j ∧ wd < quantlLevel det j ∧
        ∀ k, i ≤ k → k < j → quantlLevel det k ≤ wd) ∨
      (quantlSearch wd det fuel i = 30 ∧ ∀ k, i ≤ k → k < i + fuel → quantlLevel det k ≤ wd) := by
  induction fuel generalizing i with
  | zero => exact .inr ⟨rfl, fun k h₁ h₂ => absurd h₂ (by omega)⟩
  | succ fuel ih =>
    by_cases h : wd < quantlLevel det i
    · exact .inl ⟨i, le_rfl, by omega, by simp [quantlSearch, h], h, fun k h₁ h₂ => absurd h₂ (by omega)⟩
    · have hs : quantlSearch wd det (fuel + 1) i = quantlSearch wd det fuel (i + 1) := by
        simp [quantlSearch, h]
      rw [hs]
      have hi : ∀ k, i ≤ k → ¬ i + 1 ≤ k → quantlLevel det k ≤ wd := by
        intro k h₁ h₂
        obtain rfl : k = i := by omega
        exact not_lt.mp h
      rcases ih (i + 1) with ⟨j, h₁, h₂, h₃, h₄, h₅⟩ | ⟨h₁, h₂⟩
      · exact .inl ⟨j, by omega, by omega, h₃, h₄, fun k hk hj =>
          if hk' : i + 1 ≤ k then h₅ k hk' hj else hi k hk hk'⟩
      · exact .inr ⟨h₁, fun k hk hf => if hk' : i + 1 ≤ k then h₂ k hk' (by omega) else hi k hk hk'⟩

/-- The magnitude class is 1 to 30 (R134, R141). -/
theorem quantlClass_range (el det : Int) : 1 ≤ quantlClass el det ∧ quantlClass el det ≤ 30 := by
  unfold quantlClass
  rcases quantlSearch_spec (magnitude el) det 29 1 with ⟨j, h₁, h₂, h₃, -, -⟩ | ⟨h, -⟩
  · rw [h₃]; omega
  · rw [h]; omega

theorem iln_range : ∀ k < 31, 1 ≤ k → 4 ≤ tabNat iln k ∧ tabNat iln k ≤ 63 := by decide
theorem ilp_range : ∀ k < 31, 1 ≤ k → 32 ≤ tabNat ilp k ∧ tabNat ilp k ≤ 61 := by decide

/-- The codes QUANTL produces: never 0 to 3 (R97, R141). -/
theorem quantl_range (el det : Int) : 4 ≤ quantl el det ∧ quantl el det ≤ 63 := by
  obtain ⟨h₁, h₂⟩ := quantlClass_range el det
  unfold quantl
  split
  · exact iln_range _ (by omega) h₁
  · have := ilp_range _ (by omega : quantlClass el det < 31) h₁; omega

/-- The codes QUANTH produces (R181). -/
theorem quanth_le (eh det : Int) : quanth eh det ≤ 3 := by
  unfold quanth; split <;> [exact ihn_le _; exact ihp_le _]

/-- The largest low-band quantized difference (R29, R142). -/
theorem invqal_within {det : Int} (h₁ : 0 ≤ det) (h₂ : det ≤ 16384) (ril : Nat) : Within 10228 (invqal det ril) :=
  scaled_within h₁ h₂ (qm4_within ril)

/-- The largest decoder difference (R143). -/
theorem invqbl_within {det : Int} (h₁ : 0 ≤ det) (h₂ : det ≤ 16384) (m : Mode) (il : Nat) :
    Within 12404 (invqbl m det il) :=
  scaled_within h₁ h₂ (invqblTable_within m il)

/-- The largest high-band quantized difference (R29, R182). -/
theorem invqah_within {det : Int} (h₁ : 0 ≤ det) (h₂ : det ≤ 16384) (ih : Nat) : Within 3704 (invqah det ih) :=
  scaled_within h₁ h₂ (qm2_within ih)

theorem logscl_range (ril : Nat) (nb : Int) : 0 ≤ logscl ril nb ∧ logscl ril nb ≤ 18432 :=
  ⟨le_clamp (by decide), clamp_le (by decide)⟩

theorem logsch_range (ih : Nat) (nb : Int) : 0 ≤ logsch ih nb ∧ logsch ih nb ≤ 22528 :=
  ⟨le_clamp (by decide), clamp_le (by decide)⟩

@[simp] theorem rescaleLow_s (ril) (l : Band) : (rescaleLow ril l).s = l.s := rfl
@[simp] theorem rescaleLow_nb (ril) (l : Band) : (rescaleLow ril l).nb = logscl ril l.nb := rfl
@[simp] theorem rescaleLow_det (ril) (l : Band) : (rescaleLow ril l).det = scalel (logscl ril l.nb) := rfl
@[simp] theorem rescaleHigh_s (ih) (h : Band) : (rescaleHigh ih h).s = h.s := rfl
@[simp] theorem rescaleHigh_nb (ih) (h : Band) : (rescaleHigh ih h).nb = logsch ih h.nb := rfl
@[simp] theorem rescaleHigh_det (ih) (h : Band) : (rescaleHigh ih h).det = scaleh (logsch ih h.nb) := rfl

/-- A low-band tick, whatever the core code, keeps the invariant of the low band. -/
theorem lowTick_inv {l : Band} (h : l.Inv .low) (ril : Nat) : (lowTick ril l).Inv .low := by
  obtain ⟨h₁, h₂⟩ := logscl_range ril l.nb
  obtain ⟨h₃, h₄, h₅⟩ := scale_low h₁ h₂
  have hdet : 0 ≤ l.det := by have := h.detRange.1; simp only [BandKind.low] at this; omega
  exact adapt_inv ⟨h₁, h₂⟩ rfl ⟨h₃, h₄⟩ h₅ (invqal_within hdet h.detRange.2 ril)
    ⟨h.dRange.2.1, h.dRange.2.2.1, h.dRange.2.2.2.1, h.dRange.2.2.2.2.1, h.dRange.2.2.2.2.2.1⟩
    h.rRange.2.1 h.pRange.2.1

/-- A high-band tick, whatever the code, keeps the invariant of the high band. -/
theorem highTick_inv {b : Band} (h : b.Inv .high) (ih : Nat) : (highTick ih b).Inv .high := by
  obtain ⟨h₁, h₂⟩ := logsch_range ih b.nb
  obtain ⟨h₃, h₄, h₅⟩ := scale_high h₁ h₂
  have hdet : 0 ≤ b.det := by have := h.detRange.1; simp only [BandKind.high] at this; omega
  exact adapt_inv ⟨h₁, h₂⟩ rfl ⟨h₃, h₄⟩ h₅ (invqah_within hdet h.detRange.2 ih)
    ⟨h.dRange.2.1, h.dRange.2.2.1, h.dRange.2.2.2.1, h.dRange.2.2.2.2.1, h.dRange.2.2.2.2.2.1⟩
    h.rRange.2.1 h.pRange.2.1

end Sys2Proof.Machine
end

