-- ==== Sys2Proof/Laws/Decode.lean ====
section
/-! SUPPORT. Command words as numbers: the fields of R80 by division, the words of R82 by sums. The round trips of
decode and encode rest on these. -/

namespace Sys2Proof

theorem CommandWord.op_eq (w : CommandWord) : CommandWord.op w = w.toNat % 16 := by
  simp [CommandWord.op, BitVec.extractLsb'_toNat]

theorem CommandWord.modeField_eq (w : CommandWord) : CommandWord.modeField w = w.toNat / 16 % 4 := by
  simp [CommandWord.modeField, BitVec.extractLsb'_toNat, Nat.shiftRight_eq_div_pow]

theorem CommandWord.rsv_eq (w : CommandWord) : CommandWord.rsv w = w.toNat / 64 % 1024 := by
  simp [CommandWord.rsv, BitVec.extractLsb'_toNat, Nat.shiftRight_eq_div_pow]

theorem CommandWord.data_eq (w : CommandWord) : CommandWord.data w = w.toNat / 65536 % 65536 := by
  simp [CommandWord.data, BitVec.extractLsb'_toNat, Nat.shiftRight_eq_div_pow]

theorem CommandWord.octet_eq (w : CommandWord) : CommandWord.octet w = w.toNat / 65536 % 256 := by
  simp [CommandWord.octet, BitVec.extractLsb'_toNat, Nat.shiftRight_eq_div_pow]

theorem CommandWord.dataHigh_eq (w : CommandWord) : CommandWord.dataHigh w = w.toNat / 16777216 % 256 := by
  simp [CommandWord.dataHigh, BitVec.extractLsb'_toNat, Nat.shiftRight_eq_div_pow]

/-- The PCM operand is the signed reading of `DATA` (R81). -/
theorem CommandWord.pcm_eq (w : CommandWord) :
    CommandWord.pcm w = if CommandWord.data w < 32768 then (CommandWord.data w : Int)
      else (CommandWord.data w : Int) - 65536 := by
  have h : CommandWord.data w = (w.extractLsb' 16 16).toNat := rfl
  rw [h]
  unfold CommandWord.pcm
  rw [BitVec.toInt_eq_toNat_cond]
  split <;> split <;> omega

theorem commandWord_toNat (data : BitVec 16) (mode : BitVec 2) (op : BitVec 4) :
    (commandWord data mode op).toNat = data.toNat * 65536 + mode.toNat * 16 + op.toNat := by
  have h₁ := mode.isLt
  have h₂ := op.isLt
  simp only [commandWord, BitVec.toNat_append]
  rw [← Nat.shiftLeft_add_eq_or_of_lt (by simpa using h₂), ← Nat.shiftLeft_add_eq_or_of_lt (by simpa using h₁),
    ← Nat.shiftLeft_add_eq_or_of_lt (by simp)]
  simp only [Nat.shiftLeft_eq, BitVec.toNat_ofNat]
  omega

/-- The fields of a word put together from fields (R80). -/
theorem commandWord_fields (data : BitVec 16) (mode : BitVec 2) (op : BitVec 4) :
    CommandWord.op (commandWord data mode op) = op.toNat ∧
      CommandWord.modeField (commandWord data mode op) = mode.toNat ∧
      CommandWord.rsv (commandWord data mode op) = 0 ∧
      CommandWord.data (commandWord data mode op) = data.toNat := by
  have h₁ := mode.isLt
  have h₂ := op.isLt
  have h₃ := data.isLt
  rw [CommandWord.op_eq, CommandWord.modeField_eq, CommandWord.rsv_eq, CommandWord.data_eq, commandWord_toNat]
  refine ⟨?_, ?_, ?_, ?_⟩ <;> omega

/-- A word whose reserved bits are 0 is the word of its fields. -/
theorem commandWord_eta {w : CommandWord} (h : CommandWord.rsv w = 0) :
    commandWord (BitVec.ofNat 16 (CommandWord.data w)) (BitVec.ofNat 2 (CommandWord.modeField w))
      (BitVec.ofNat 4 (CommandWord.op w)) = w := by
  apply BitVec.eq_of_toNat_eq
  have hw := w.isLt
  rw [CommandWord.rsv_eq] at h
  rw [commandWord_toNat, BitVec.toNat_ofNat, BitVec.toNat_ofNat, BitVec.toNat_ofNat, CommandWord.data_eq,
    CommandWord.modeField_eq, CommandWord.op_eq]
  omega

/-- The PCM operand of a word is the one whose 16-bit form is `DATA` (R81). -/
theorem CommandWord.ofInt_pcm (w : CommandWord) :
    BitVec.ofInt 16 (CommandWord.pcm w) = BitVec.ofNat 16 (CommandWord.data w) := by
  rw [CommandWord.pcm, CommandWord.data, BitVec.ofInt_toInt, BitVec.ofNat_toNat, BitVec.setWidth_eq]

end Sys2Proof
end

