-- ==== Sys2Proof/Laws/State.lean ====
section
/-! SUPPORT. One lemma per field of State and per update: what each shared operation of Ops.lean leaves in
each field. Later proofs cite these and never unfold a record update. -/

namespace Sys2Proof.Machine

@[simp] theorem State.respond_lc (r) (s : State) : (s.respond r).lc = s.lc := rfl
@[simp] theorem State.respond_errSeen (r) (s : State) : (s.respond r).errSeen = s.errSeen := rfl
@[simp] theorem State.respond_lastErr (r) (s : State) : (s.respond r).lastErr = s.lastErr := rfl
@[simp] theorem State.respond_dsp (r) (s : State) : (s.respond r).dsp = s.dsp := rfl
@[simp] theorem State.respond_drops (r) (s : State) : (s.respond r).drops = s.drops := rfl
@[simp] theorem State.respond_inputs (r) (s : State) : (s.respond r).port.inputs = s.port.inputs := rfl
@[simp] theorem State.respond_responses (r) (s : State) :
    (s.respond r).port.responses = s.port.responses ++ [r] := rfl

@[simp] theorem State.accept_lc (r) (s : State) : (s.accept r).lc = s.lc := rfl
@[simp] theorem State.accept_errSeen (r) (s : State) : (s.accept r).errSeen = s.errSeen := rfl
@[simp] theorem State.accept_lastErr (r) (s : State) : (s.accept r).lastErr = none := rfl
@[simp] theorem State.accept_dsp (r) (s : State) : (s.accept r).dsp = s.dsp := rfl
@[simp] theorem State.accept_drops (r) (s : State) : (s.accept r).drops = s.drops := rfl
@[simp] theorem State.accept_inputs (r) (s : State) : (s.accept r).port.inputs = s.port.inputs := rfl
@[simp] theorem State.accept_responses (r) (s : State) :
    (s.accept r).port.responses = s.port.responses ++ [r] := rfl

@[simp] theorem State.reject_lc (e) (s : State) : (s.reject e).lc = s.lc := rfl
@[simp] theorem State.reject_errSeen (e) (s : State) : (s.reject e).errSeen = true := rfl
@[simp] theorem State.reject_lastErr (e) (s : State) : (s.reject e).lastErr = some e := rfl
@[simp] theorem State.reject_dsp (e) (s : State) : (s.reject e).dsp = s.dsp := rfl
@[simp] theorem State.reject_drops (e) (s : State) : (s.reject e).drops = s.drops := rfl
@[simp] theorem State.reject_inputs (e) (s : State) : (s.reject e).port.inputs = s.port.inputs := rfl
@[simp] theorem State.reject_responses (e) (s : State) :
    (s.reject e).port.responses = s.port.responses ++ [respError e] := rfl

@[simp] theorem State.dropDsp_lc (s : State) : s.dropDsp.lc = s.lc := rfl
@[simp] theorem State.dropDsp_errSeen (s : State) : s.dropDsp.errSeen = s.errSeen := rfl
@[simp] theorem State.dropDsp_lastErr (s : State) : s.dropDsp.lastErr = s.lastErr := rfl
@[simp] theorem State.dropDsp_dsp (s : State) : s.dropDsp.dsp = Dsp.noValue s.drops := rfl
@[simp] theorem State.dropDsp_drops (s : State) : s.dropDsp.drops = s.drops + 1 := rfl
@[simp] theorem State.dropDsp_port (s : State) : s.dropDsp.port = s.port := rfl

@[simp] theorem State.powerOn_lc (s : State) : s.powerOn.lc = .idle := rfl
@[simp] theorem State.powerOn_errSeen (s : State) : s.powerOn.errSeen = false := rfl
@[simp] theorem State.powerOn_lastErr (s : State) : s.powerOn.lastErr = none := rfl
@[simp] theorem State.powerOn_dsp (s : State) : s.powerOn.dsp = Dsp.noValue s.drops := rfl
@[simp] theorem State.powerOn_drops (s : State) : s.powerOn.drops = s.drops + 1 := rfl
@[simp] theorem State.powerOn_port (s : State) : s.powerOn.port = s.port := rfl

@[simp] theorem State.offer_lc (w) (s : State) : (s.offer w).lc = s.lc := rfl
@[simp] theorem State.offer_errSeen (w) (s : State) : (s.offer w).errSeen = s.errSeen := rfl
@[simp] theorem State.offer_lastErr (w) (s : State) : (s.offer w).lastErr = s.lastErr := rfl
@[simp] theorem State.offer_dsp (w) (s : State) : (s.offer w).dsp = s.dsp := rfl
@[simp] theorem State.offer_drops (w) (s : State) : (s.offer w).drops = s.drops := rfl
@[simp] theorem State.offer_inputs (w) (s : State) :
    (s.offer w).port.inputs = .command w :: s.port.inputs := rfl
@[simp] theorem State.offer_responses (w) (s : State) :
    (s.offer w).port.responses = s.port.responses := rfl

/-- The three cases of taking an input. -/
theorem State.takeInput_nil {s : State} (h : s.port.inputs = []) : s.takeInput = none := by
  simp [State.takeInput, h]

theorem State.takeInput_cons {s : State} {i : PortInput} {rest : List PortInput}
    (h : s.port.inputs = i :: rest) :
    s.takeInput = some (i, { s with port := { s.port with inputs := rest } }) := by
  simp [State.takeInput, h]

/-- What `PHASE` is in each lifecycle state (R32). -/
theorem State.phaseBit_streaming {s : State} {m : Mode} {d : Option Direction}
    (h : s.lc = .streaming m d) : s.phaseBit = s.dsp.analysis.phase := by
  simp [State.phaseBit, h]

end Sys2Proof.Machine
end

