-- ==== Sys2Proof/Laws/Exec.lean ====
section
/-! SUPPORT. What each command answers, once per command and lifecycle state, so that no later proof unfolds a
meaning (R230 to R238, R262 to R264). -/

namespace Sys2Proof.Machine

theorem execOpen_streaming {s : State} {md : Mode} {dir : Option Direction} (h : s.lc = .streaming md dir) (m : Nat) :
    execOpen m s = .next (s.reject .invalidState) := by simp [execOpen, h]

theorem execOpen_invalid {s : State} (h : ¬ s.Streaming) {m : Nat} (hm : Mode.ofField m = none) :
    execOpen m s = .next (s.reject .invalidConfig) := by
  unfold execOpen
  split
  · exact absurd ⟨_, _, ‹_›⟩ h
  all_goals simp [hm]

theorem execOpen_ok {s : State} (h : ¬ s.Streaming) {m : Nat} {md : Mode} (hm : Mode.ofField m = some md) :
    execOpen m s = .next (State.accept respNone { s with lc := .streaming md none, dsp := Dsp.streamStart }) := by
  unfold execOpen
  split
  · exact absurd ⟨_, _, ‹_›⟩ h
  all_goals simp [hm]

theorem execClose_ok {s : State} {md : Mode} {dir : Option Direction} (h : s.lc = .streaming md dir) :
    execClose s = .next (State.accept respNone { s.dropDsp with lc := .closed }) := by simp [execClose, h]

theorem execClose_invalid {s : State} (h : ¬ s.Streaming) : execClose s = .next (s.reject .invalidState) := by
  unfold execClose
  split
  · rfl
  · rfl
  · exact absurd ⟨_, _, ‹_›⟩ h

theorem execEnc_invalid {s : State} (h : ¬ s.Streaming) (pcm : Int) :
    execEnc pcm s = .next (s.reject .invalidState) := by
  unfold execEnc
  split
  · rfl
  · rfl
  · exact absurd ⟨_, _, ‹_›⟩ h
  · exact absurd ⟨_, _, ‹_›⟩ h

theorem execEnc_mismatch {s : State} {md : Mode} (h : s.lc = .streaming md (some .decode)) (pcm : Int) :
    execEnc pcm s = .next (s.reject .directionMismatch) := by simp [execEnc, h]

/-- The first sample of a pair: the register shifts, and no octet is returned (R210, R231). -/
theorem execEnc_none {s : State} {md : Mode} {dir : Option Direction} (h : s.lc = .streaming md dir)
    (hd : dir ≠ some .decode) (hp : s.dsp.analysis.phase = false) (pcm : Int) :
    execEnc pcm s = .next (State.accept respNone
      { s with lc := .streaming md (some .encode)
               dsp := { s.dsp with analysis := { x := s.dsp.analysis.x.push pcm, phase := true } } }) := by
  rcases dir with _ | (_ | _)
  · simp [execEnc, h, analysisPush, analysisShift, hp]
  · simp [execEnc, h, analysisPush, analysisShift, hp]
  · exact absurd rfl hd

/-- The second sample of a pair: the register shifts and both bands take a tick (R231). -/
theorem execEnc_octet {s : State} {md : Mode} {dir : Option Direction} (h : s.lc = .streaming md dir)
    (hd : dir ≠ some .decode) (hp : s.dsp.analysis.phase = true) (pcm : Int) :
    execEnc pcm s = .next (State.accept
      (respOctet (encodeTick md (analysisOut (s.dsp.analysis.x.push pcm))
        { s.dsp with analysis := { x := s.dsp.analysis.x.push pcm, phase := false } }).1)
      { s with lc := .streaming md (some .encode)
               dsp := (encodeTick md (analysisOut (s.dsp.analysis.x.push pcm))
                 { s.dsp with analysis := { x := s.dsp.analysis.x.push pcm, phase := false } }).2 }) := by
  rcases dir with _ | (_ | _)
  · simp [execEnc, h, analysisPush, analysisShift, hp]
  · simp [execEnc, h, analysisPush, analysisShift, hp]
  · exact absurd rfl hd

theorem execDec_invalid {s : State} (h : ¬ s.Streaming) (octet : Nat) :
    execDec octet s = .next (s.reject .invalidState) := by
  unfold execDec
  split
  · rfl
  · rfl
  · exact absurd ⟨_, _, ‹_›⟩ h
  · exact absurd ⟨_, _, ‹_›⟩ h

theorem execDec_mismatch {s : State} {md : Mode} (h : s.lc = .streaming md (some .encode)) (octet : Nat) :
    execDec octet s = .next (s.reject .directionMismatch) := by simp [execDec, h]

theorem execDec_padding {s : State} {md : Mode} {dir : Option Direction} (h : s.lc = .streaming md dir)
    (hd : dir ≠ some .encode) {octet : Nat} (hp : (unpack octet md).pad ≠ 0) :
    execDec octet s = .next (s.reject .invalidInput) := by
  rcases dir with _ | (_ | _)
  · simp [execDec, h, hp]
  · exact absurd rfl hd
  · simp [execDec, h, hp]

theorem execDec_ok {s : State} {md : Mode} {dir : Option Direction} (h : s.lc = .streaming md dir)
    (hd : dir ≠ some .encode) {octet : Nat} (hp : (unpack octet md).pad = 0) :
    execDec octet s = .next (State.accept
      (respPcmPair (decodeTick md (unpack octet md).il (unpack octet md).ih s.dsp).1.1
        (decodeTick md (unpack octet md).il (unpack octet md).ih s.dsp).1.2)
      { s with lc := .streaming md (some .decode)
               dsp := (decodeTick md (unpack octet md).il (unpack octet md).ih s.dsp).2 }) := by
  rcases dir with _ | (_ | _)
  · simp [execDec, h, hp]
  · exact absurd rfl hd
  · simp [execDec, h, hp]

/-- What a command does to the state, whatever the command: it is rejected, or accepted with one of the five
effects the rules give (R230, R231, R233, R235, R236). -/
theorem exec_cases (i : Instr) (s : State) :
    (∃ e, exec i s = .next (s.reject e)) ∨
    (∃ m md, i = .openStream m ∧ Mode.ofField m = some md ∧ ¬ s.Streaming ∧
      exec i s = .next (State.accept respNone { s with lc := .streaming md none, dsp := Dsp.streamStart })) ∨
    (i = .close ∧ s.Streaming ∧ exec i s = .next (State.accept respNone { s.dropDsp with lc := .closed })) ∨
    (i = .status ∧ exec i s = .next (State.accept (respStatus (statusWord s)) s)) ∨
    (∃ pcm md dir r d, i = .enc pcm ∧ s.lc = .streaming md dir ∧ dir ≠ some .decode ∧
      (s.dsp.analysis.phase = false ∧ r = respNone ∧
          d = { s.dsp with analysis := { x := s.dsp.analysis.x.push pcm, phase := true } } ∨
        s.dsp.analysis.phase = true ∧
          ∃ o, r = respOctet o ∧
            (o, d) = encodeTick md (analysisOut (s.dsp.analysis.x.push pcm))
              { s.dsp with analysis := { x := s.dsp.analysis.x.push pcm, phase := false } }) ∧
      exec i s = .next (State.accept r { s with lc := .streaming md (some .encode), dsp := d })) ∨
    (∃ octet md dir, i = .dec octet ∧ s.lc = .streaming md dir ∧ dir ≠ some .encode ∧ (unpack octet md).pad = 0 ∧
      exec i s = .next (State.accept
        (respPcmPair (decodeTick md (unpack octet md).il (unpack octet md).ih s.dsp).1.1
          (decodeTick md (unpack octet md).il (unpack octet md).ih s.dsp).1.2)
        { s with lc := .streaming md (some .decode)
                 dsp := (decodeTick md (unpack octet md).il (unpack octet md).ih s.dsp).2 })) := by
  cases i with
  | openStream m =>
    by_cases hs : s.Streaming
    · obtain ⟨md, dir, h⟩ := hs
      exact .inl ⟨_, execOpen_streaming h m⟩
    · cases hm : Mode.ofField m with
      | none => exact .inl ⟨_, execOpen_invalid hs hm⟩
      | some md => exact .inr (.inl ⟨m, md, rfl, hm, hs, execOpen_ok hs hm⟩)
  | enc pcm =>
    by_cases hs : s.Streaming
    · obtain ⟨md, dir, h⟩ := hs
      by_cases hd : dir = some .decode
      · exact .inl ⟨_, execEnc_mismatch (hd ▸ h) pcm⟩
      · refine .inr (.inr (.inr (.inr (.inl ?_))))
        cases hp : s.dsp.analysis.phase with
        | false => exact ⟨pcm, md, dir, _, _, rfl, h, hd, .inl ⟨rfl, rfl, rfl⟩, execEnc_none h hd hp pcm⟩
        | true => exact ⟨pcm, md, dir, _, _, rfl, h, hd, .inr ⟨rfl, _, rfl, rfl⟩, execEnc_octet h hd hp pcm⟩
    · exact .inl ⟨_, execEnc_invalid hs pcm⟩
  | dec octet =>
    by_cases hs : s.Streaming
    · obtain ⟨md, dir, h⟩ := hs
      by_cases hd : dir = some .encode
      · exact .inl ⟨_, execDec_mismatch (hd ▸ h) octet⟩
      · by_cases hp : (unpack octet md).pad = 0
        · exact .inr (.inr (.inr (.inr (.inr ⟨octet, md, dir, rfl, h, hd, hp, execDec_ok h hd hp⟩))))
        · exact .inl ⟨_, execDec_padding h hd hp⟩
    · exact .inl ⟨_, execDec_invalid hs octet⟩
  | close =>
    by_cases hs : s.Streaming
    · obtain ⟨md, dir, h⟩ := hs
      exact .inr (.inr (.inl ⟨rfl, ⟨md, dir, h⟩, execClose_ok h⟩))
    · exact .inl ⟨_, execClose_invalid hs⟩
  | status => exact .inr (.inr (.inr (.inl ⟨rfl, rfl⟩)))

/-- What a step does: nothing, a power-on reset, a rejection of a malformed word, or a command (R237, R275, R290). -/
theorem step_cases (s : State) :
    (s.port.inputs = [] ∧ step s = .next s) ∨
    (∃ rest, s.port.inputs = .powerOnReset :: rest ∧
      step s = .next ({ s with port := { s.port with inputs := rest } } : State).powerOn) ∨
    (∃ w rest, s.port.inputs = .command w :: rest ∧ decode w = none ∧
      step s = .next (({ s with port := { s.port with inputs := rest } } : State).reject .illegalCommand)) ∨
    (∃ w rest i, s.port.inputs = .command w :: rest ∧ decode w = some i ∧
      step s = exec i { s with port := { s.port with inputs := rest } }) := by
  match h : s.port.inputs with
  | [] => exact .inl ⟨rfl, by simp [step, State.takeInput_nil h]⟩
  | .powerOnReset :: rest => exact .inr (.inl ⟨rest, rfl, by simp [step, State.takeInput_cons h]⟩)
  | .command w :: rest =>
    cases hw : decode w with
    | none => exact .inr (.inr (.inl ⟨w, rest, rfl, hw, by simp [step, State.takeInput_cons h, runCommand, hw]⟩))
    | some i => exact .inr (.inr (.inr ⟨w, rest, i, rfl, hw, by simp [step, State.takeInput_cons h, runCommand, hw]⟩))

end Sys2Proof.Machine
end

