-- ==== Sys2Proof/Laws/PerInstr.lean ====
section
/-! SUPPORT. The family RoundTrip, one lemma per constructor of Instr: a well-formed command decodes from its own
word (R81 to R83, R98). -/

namespace Sys2Proof.Laws.RoundTrip

/-- Decoding the word of a well-formed command gives the command back. -/
def Statement (i : Instr) : Prop := i.wf = true → decode (encode i) = some i

theorem openStream (m : Nat) : Statement (.openStream m) := by
  intro h
  have hm : m ≤ 3 := by simpa [Instr.wf] using h
  obtain ⟨h₁, h₂, h₃, h₄⟩ := commandWord_fields 0#16 (BitVec.ofNat 2 m) 1#4
  have h₅ : (BitVec.ofNat 2 m).toNat = m := by rw [BitVec.toNat_ofNat]; omega
  rw [h₅] at h₂
  simp [decode, encode, h₁, h₂, h₃, h₄]

theorem enc (pcm : Int) : Statement (.enc pcm) := by
  intro h
  have hp : -32768 ≤ pcm ∧ pcm ≤ 32767 := by simpa [Instr.wf] using h
  obtain ⟨h₁, h₂, h₃, h₄⟩ := commandWord_fields (BitVec.ofInt 16 pcm) 0#2 2#4
  have h₅ : CommandWord.pcm (commandWord (BitVec.ofInt 16 pcm) 0#2 2#4) = pcm := by
    rw [CommandWord.pcm_eq, h₄, BitVec.toNat_ofInt]
    split <;> omega
  simp [decode, encode, h₁, h₂, h₃, h₅]

theorem dec (octet : Nat) : Statement (.dec octet) := by
  intro h
  have ho : octet ≤ 255 := by simpa [Instr.wf] using h
  obtain ⟨h₁, h₂, h₃, -⟩ := commandWord_fields (0#8 ++ BitVec.ofNat 8 octet) 0#2 3#4
  have hd : (0#8 ++ BitVec.ofNat 8 octet).toNat = octet := by
    rw [BitVec.toNat_append]; simp; omega
  have h₅ : CommandWord.octet (commandWord (0#8 ++ BitVec.ofNat 8 octet) 0#2 3#4) = octet := by
    rw [CommandWord.octet_eq, commandWord_toNat, hd]; simp; omega
  have h₆ : CommandWord.dataHigh (commandWord (0#8 ++ BitVec.ofNat 8 octet) 0#2 3#4) = 0 := by
    rw [CommandWord.dataHigh_eq, commandWord_toNat, hd]; simp; omega
  simp [decode, encode, h₁, h₂, h₃, h₅, h₆]

theorem close : Statement .close := by intro _; decide

theorem status : Statement .status := by intro _; decide

end Sys2Proof.Laws.RoundTrip
end

