-- ==== Sys2Proof/Laws/Words.lean ====
section
/-! SUPPORT. The STATUS register and the response word as numbers (R32, R86): every field by its place, so that a
proof about a field is arithmetic. -/

namespace Sys2Proof.Machine

theorem responseWord_toNat (data1 data0 : BitVec 16) (kind : BitVec 2) (err : BitVec 3) :
    (responseWord data1 data0 kind err).toNat =
      data1.toNat * 4294967296 + data0.toNat * 65536 + kind.toNat * 16 + err.toNat := by
  have h₁ := data0.isLt
  have h₂ := kind.isLt
  have h₃ := err.isLt
  simp only [responseWord, BitVec.toNat_append]
  rw [← Nat.shiftLeft_add_eq_or_of_lt (by simpa using h₃), ← Nat.shiftLeft_add_eq_or_of_lt (by simp),
    ← Nat.shiftLeft_add_eq_or_of_lt (by simpa using h₂), ← Nat.shiftLeft_add_eq_or_of_lt (by simp),
    ← Nat.shiftLeft_add_eq_or_of_lt (by simpa using h₁), ← Nat.shiftLeft_add_eq_or_of_lt (data1.isLt)]
  simp only [Nat.shiftLeft_eq, BitVec.toNat_ofNat]
  omega

/-- The STATUS register with its fields as arguments. -/
theorem statusWord_toNat (s : State) :
    (statusWord s).toNat =
      (errCode s.lastErr).toNat * 256 + s.errSeen.toNat * 128 + s.phaseBit.toNat * 64
        + s.lc.dirField.toNat * 16 + s.lc.modeField.toNat * 4 + s.lc.lcField.toNat := by
  have h₁ := (errCode s.lastErr).isLt
  have h₂ := s.errSeen.toNat_lt
  have h₃ := s.phaseBit.toNat_lt
  have h₄ := s.lc.dirField.isLt
  have h₅ := s.lc.modeField.isLt
  have h₆ := s.lc.lcField.isLt
  simp only [statusWord, BitVec.toNat_append, BitVec.toNat_ofBool]
  rw [← Nat.shiftLeft_add_eq_or_of_lt h₆, ← Nat.shiftLeft_add_eq_or_of_lt h₅,
    ← Nat.shiftLeft_add_eq_or_of_lt h₄, ← Nat.shiftLeft_add_eq_or_of_lt (by simpa using h₃),
    ← Nat.shiftLeft_add_eq_or_of_lt (by simpa using h₂), ← Nat.shiftLeft_add_eq_or_of_lt h₁]
  simp only [Nat.shiftLeft_eq, BitVec.toNat_ofNat]
  omega

/-- The octet response as a shifted number (R86). -/
theorem respOctet_eq {octet : Nat} (h : octet ≤ 255) :
    respOctet octet = (BitVec.ofNat 64 octet <<< 16) ||| 0x10#64 := by
  apply BitVec.eq_of_toNat_eq
  have h₁ : (0#8 ++ BitVec.ofNat 8 octet).toNat = octet := by rw [BitVec.toNat_append]; simp; omega
  rw [respOctet, responseWord_toNat, h₁]
  simp only [BitVec.toNat_or, BitVec.toNat_shiftLeft, BitVec.toNat_ofNat, Nat.shiftLeft_eq]
  rw [Nat.mod_eq_of_lt (by omega : octet < 2 ^ 64), Nat.mod_eq_of_lt (by omega : octet * 2 ^ 16 < 2 ^ 64)]
  have h₂ := Nat.shiftLeft_add_eq_or_of_lt (by decide : 0x10 < 2 ^ 16) octet
  rw [Nat.shiftLeft_eq] at h₂
  simp only [show (16 % 2 ^ 64 : Nat) = 0x10 by decide]
  rw [← h₂]
  simp

/-- The STATUS response as a shifted register (R86). -/
theorem respStatus_eq (v : StatusWord) : respStatus v = (v.setWidth 64 <<< 16) ||| 0x30#64 := by
  apply BitVec.eq_of_toNat_eq
  have h := v.isLt
  rw [respStatus, responseWord_toNat]
  simp only [BitVec.toNat_or, BitVec.toNat_shiftLeft, BitVec.toNat_ofNat, BitVec.toNat_setWidth, Nat.shiftLeft_eq]
  rw [Nat.mod_eq_of_lt (by omega : v.toNat < 2 ^ 64), Nat.mod_eq_of_lt (by omega : v.toNat * 2 ^ 16 < 2 ^ 64)]
  have h₂ := Nat.shiftLeft_add_eq_or_of_lt (by decide : 0x30 < 2 ^ 16) v.toNat
  rw [Nat.shiftLeft_eq] at h₂
  simp only [show (48 % 2 ^ 64 : Nat) = 0x30 by decide]
  rw [← h₂]
  simp

/-- Two shifted halfwords and a small constant, put together by `|||`, are their sum. -/
theorem shifted_or_eq (x y c : Nat) (hx : x < 65536) (hc : c < 65536) :
    y <<< 32 ||| x <<< 16 ||| c = y * 4294967296 + x * 65536 + c := by
  have h₁ : x <<< 16 < 2 ^ 32 := by rw [Nat.shiftLeft_eq]; omega
  rw [← Nat.shiftLeft_add_eq_or_of_lt h₁]
  have h₂ : y <<< 32 + x <<< 16 = (y <<< 16 + x) <<< 16 := by simp only [Nat.shiftLeft_eq]; omega
  rw [h₂, ← Nat.shiftLeft_add_eq_or_of_lt (by simpa using hc)]
  simp only [Nat.shiftLeft_eq]
  omega

/-- The PCM pair response as shifted samples (R86, R215). -/
theorem respPcmPair_eq (e o : Int) :
    respPcmPair e o =
      ((BitVec.ofInt 16 o).setWidth 64 <<< 32) ||| ((BitVec.ofInt 16 e).setWidth 64 <<< 16) ||| 0x20#64 := by
  apply BitVec.eq_of_toNat_eq
  rw [respPcmPair, responseWord_toNat]
  generalize BitVec.ofInt 16 e = x
  generalize BitVec.ofInt 16 o = y
  have hx := x.isLt
  have hy := y.isLt
  have h₁ : (x.setWidth 64 <<< 16).toNat = x.toNat <<< 16 := by
    rw [BitVec.toNat_shiftLeft, BitVec.toNat_setWidth, Nat.shiftLeft_eq, Nat.shiftLeft_eq]; omega
  have h₂ : (y.setWidth 64 <<< 32).toNat = y.toNat <<< 32 := by
    rw [BitVec.toNat_shiftLeft, BitVec.toNat_setWidth, Nat.shiftLeft_eq, Nat.shiftLeft_eq]; omega
  rw [BitVec.toNat_or, BitVec.toNat_or, h₁, h₂, shifted_or_eq _ _ _ hx (by decide)]
  simp only [BitVec.toNat_ofNat, BitVec.ofNat_eq_ofNat]

end Sys2Proof.Machine
end

