-- ==== Sys2Proof/Tests/Slice0.lean ====
section
/-! SUPPORT. The model's own tests: the smoke test of WellFormed, words written out from 30_encoding.md, one-step
vectors of 95_test_vectors.md, and for every obligation with hypotheses a state that meets them together. -/

namespace Sys2Proof.Tests

open Sys2Proof.Machine

/-! ## Helpers -/

/-- Right after OPEN, with the direction as given. -/
def openAt (m : Mode) (dir : Option Direction) : State :=
  { State.reset with lc := .streaming m dir, dsp := Dsp.streamStart }

/-- An encode stream after the first sample, 0, of its first pair. -/
def halfPair (m : Mode) : State :=
  { openAt m (some .encode) with
    dsp := { Dsp.streamStart with analysis := { x := ShiftReg.const 24 0, phase := true } } }

/-- Right after CLOSE, as far as STATUS shows. -/
def closedState : State := { State.reset with lc := .closed }

/-- What a host sees of a step: the last response and the STATUS register after it. -/
def seen (o : Host.Outcome State Fault Refusal) : Option (Option ResponseWord × StatusWord) :=
  match o with
  | .next t => some (t.port.responses.getLast?, statusWord t)
  | _ => none

/-- The step of `s` with the word next at the port. -/
def given (w : Nat) (s : State) : Option (Option ResponseWord × StatusWord) := seen (step (s.withFetchWord 32 w))

theorem openAt_streaming (m : Mode) (d : Option Direction) : (openAt m d).Streaming := ⟨m, d, rfl⟩
theorem halfPair_streaming (m : Mode) : (halfPair m).Streaming := ⟨m, some .encode, rfl⟩
theorem reset_not_streaming : ¬ State.reset.Streaming := by rintro ⟨_, _, h⟩; cases h
theorem closed_not_streaming : ¬ closedState.Streaming := by rintro ⟨_, _, h⟩; cases h

/-! ## WellFormed -/

theorem test_wf_open_4_refused : Instr.wf (.openStream 4) = false := by decide
theorem test_wf_open_3_accepted : Instr.wf (.openStream 3) = true := by decide
theorem test_wf_enc_32768_refused : Instr.wf (.enc 32768) = false := by decide
theorem test_wf_enc_below_refused : Instr.wf (.enc (-32769)) = false := by decide
theorem test_wf_enc_ends_accepted : Instr.wf (.enc 32767) = true ∧ Instr.wf (.enc (-32768)) = true := by decide
theorem test_wf_dec_256_refused : Instr.wf (.dec 256) = false := by decide
theorem test_wf_dec_255_accepted : Instr.wf (.dec 255) = true := by decide

/-! ## Decoding, words written out bit by bit from the encodings of R82 and R83 -/

/-- `OPEN 2`: OP 0001, MODE 10. -/
theorem test_decode_open : decode 0b00000000000000000000000000100001#32 = some (.openStream 2) := by decide
/-- `ENC -3`: OP 0010, DATA 1111111111111101. -/
theorem test_decode_enc : decode 0b11111111111111010000000000000010#32 = some (.enc (-3)) := by decide
/-- `DEC 0x81`: OP 0011, DATA 0000000010000001. -/
theorem test_decode_dec : decode 0b00000000100000010000000000000011#32 = some (.dec 129) := by decide
theorem test_decode_close : decode 0b00000000000000000000000000000100#32 = some .close := by decide
theorem test_decode_status : decode 0b00000000000000000000000000000101#32 = some .status := by decide
/-- The reserved opcodes 0x0 and 0x6 to 0xF (R82). -/
theorem test_decode_reserved : ∀ op : Nat, op < 16 → op = 0 ∨ 6 ≤ op → decode (BitVec.ofNat 32 op) = none := by decide
/-- Each field constraint of R83, one bit set. -/
theorem test_decode_constraints :
    [0x00000041#32, 0x00008002#32, 0x00000012#32, 0x00000023#32, 0x00000014#32, 0x00000025#32, 0x00010001#32,
      0x80000004#32, 0x00020005#32, 0x01000003#32, 0x80000003#32].all (fun w => decode w = none) = true := by decide
theorem test_decodeTableWord : decodeTableWord 32 0x03E80002 = some (.enc 1000) := by decide
theorem test_tableWord_short : decodeTableWord 8 0xFF31 = some (.openStream 3) := by decide

/-! ## The assembler notation (R98) -/

theorem test_line_hex : readLine ("DEC 0x7E ; padding".toList) = some (some (.instr (.dec 126))) := by decide +kernel
theorem test_line_negative : readLine ("ENC -16384".toList) = some (some (.instr (.enc (-16384)))) := by decide +kernel
theorem test_line_word : readLine (".word 0x01000003".toList) = some (some (.word 0x01000003#32)) := by decide +kernel
theorem test_line_range : readLine ("DEC 256".toList) = none ∧ readLine ("OPEN 4".toList) = none := by decide +kernel
theorem test_program :
    readProgram ["OPEN 1".toList, "; comment".toList, "CLOSE".toList] = some [0x11#32, 4#32] := by decide +kernel

/-! ## One command, the response and STATUS (V-C table) -/

theorem test_V_C1 : given 0x00000005 State.reset = some (some 0x30#64, 0x0000#16) := by decide +kernel
theorem test_status_value :
    given 0x00000005 { openAt .mode1 none with errSeen := true } = some (some 0x850030#64, 0x0085#16) := by
  decide +kernel
theorem test_V_C3 : given 0x00000001 State.reset = some (some 2#64, 0x0280#16) := by decide +kernel
theorem test_V_C4 : given 0x00000011 State.reset = some (some 0#64, 0x0005#16) := by decide +kernel
theorem test_V_C5 : given 0x00000002 (openAt .mode1 none) = some (some 0#64, 0x0055#16) := by decide +kernel
theorem test_V_C6 : given 0x00000002 (halfPair .mode1) = some (some 0xFA0010#64, 0x0015#16) := by decide +kernel
theorem test_V_C9 : given 0x00000004 (openAt .mode1 none) = some (some 0#64, 0x0002#16) := by decide +kernel
theorem test_V_C10 : given 0x00000004 closedState = some (some 4#64, 0x0482#16) := by decide +kernel
theorem test_V_C12 : given 0x00000013 State.reset = some (some 1#64, 0x0180#16) := by decide +kernel
theorem test_V_C16 : given 0x00FA0003 (openAt .mode1 none) = some (some 0x0000FFFF00000020#64, 0x0025#16) := by
  decide +kernel
theorem test_V_C20 : given 0x00FF0003 (halfPair .mode3) = some (some 5#64, 0x05DD#16) := by decide +kernel

/-! ## The blocks -/

/-- 40_arith.md vectors: the shift floors, and `clamp14` is a 15-bit range. -/
theorem test_arith : asr (-129) 7 = -2 ∧ asr (32767 * -32768) 15 = -32767 ∧ clamp14 16384 = 16383 ∧
    clamp14 (-16385) = -16384 ∧ clamp16 (-49151) = -32768 := by decide
/-- V-L1: equality with a level, both signs, both ends. -/
theorem test_quantl : quantl 7 32 = 42 ∧ quantl 8 32 = 41 ∧ quantl (-8) 32 = 14 ∧ quantl (-9) 32 = 13 ∧
    quantl (-1) 32 = 30 ∧ quantl (-32768) 32 = 4 ∧ quantl (-1) 16384 = 63 := by decide +kernel
/-- V-L2, V-L3. -/
theorem test_invq : invqal 32 7 = -2 ∧ invqal 16384 1 = -10228 ∧ invqbl .mode1 32 0 = -1 ∧
    invqbl .mode2 16384 2 = -11676 ∧ invqbl .mode3 32 14 = 1 := by decide +kernel
/-- V-L4, V-H3. -/
theorem test_scale : logscl 7 18400 = 18226 ∧ scalel 18226 = 15024 ∧ scalel 18431 = 16032 ∧ scalel 18432 = 16384 ∧
    logsch 1 100 = 0 ∧ scaleh 20479 = 8016 ∧ scaleh 22528 = 16384 := by decide +kernel
/-- V-A3: the bound of `a1` follows the new `a2`. -/
theorem test_adapt_poles :
    let t := adapt 10 { Band.streamStart 32 with a1 := 15000, a2 := 12288, p1 := 5, p2 := 5 }
    t.a2 = 12064 ∧ t.a1 = 3296 := by decide +kernel
/-- V-A7. -/
theorem test_adapt_zeros :
    let t := adapt 3 { Band.streamStart 32 with b1 := 1000, b2 := -1000, b6 := 32767, d1 := 5, d2 := -5 }
    t.b1 = 1124 ∧ t.b2 = -1125 ∧ t.b3 = 128 ∧ t.b6 = 32767 := by decide +kernel
/-- D6: the partial sums of FILTEZ saturate in order. -/
theorem test_filtez_order :
    (filtez { Band.const 0 with b1 := 32767, b2 := 32767, b3 := -32768, d1 := 16383, d2 := 16383, d3 := 16383 }).sz
      = 1 := by decide +kernel
/-- V-H1. -/
theorem test_quanth : quanth 1127 8192 = 3 ∧ quanth 1128 8192 = 2 ∧ quanth (-1128) 8192 = 1 ∧
    quanth (-1129) 8192 = 0 := by decide +kernel
/-- V-Q1: the register that holds only `x[0] = 8192`, and the first two synthesis outputs. -/
theorem test_qmf :
    analysisOut ((ShiftReg.const 24 0).push 8192) = (3, 3) ∧
    (synthesisPush 1000 0 Dsp.streamStart.synthesis).1 = (0, -3) := by decide +kernel
/-- V-Q2: the lower clamp of the high sub-band is -16383. -/
theorem test_high_clamp :
    analysisOut ⟨[-32768, 32767, -32768, 32767, -32768, 32767, -32768, 32767, -32768, 32767, -32768, 32767,
      -32768, 32767, -32768, 32767, -32768, 32767, -32768, 32767, -32768, 32767, -32768, 32767], rfl⟩
      = (-1, -16383) := by decide +kernel

/-! ## Witnesses: encoding and the step -/

theorem witness_DecodeInvertsEncode :
    Instr.wf (.openStream 3) = true ∧ Instr.wf (.enc (-32768)) = true ∧ Instr.wf (.dec 255) = true := by decide
theorem witness_EncodeInvertsDecode : decode 0xFFFF0002#32 = some (.enc (-1)) := by decide
theorem witness_DecodeIsTheMatchMaskTable :
    (State.reset.offer 0x6#32).port.inputs = .command 0x6#32 :: [] ∧ decode 0x6#32 = none := by decide
theorem witness_DecodeIsTheMatchMaskTable_rows :
    0x31#32 &&& 0xFFFFFFCF#32 = 0x1#32 ∧ 0x5#32 &&& 0xFFFFFFFF#32 = 0x5#32 := by decide
theorem witness_AssemblerLinesGiveTheirWords : (3 ≤ 3) ∧ (-32768 : Int) ≤ -32768 ∧ (-32768 : Int) ≤ 32767 ∧ 255 ≤ 255 := by
  decide
theorem witness_StepRunsTheDecodedCommand :
    (State.reset.offer 0x11#32).port.inputs = .command 0x11#32 :: [] ∧ decode 0x11#32 = some (.openStream 1) := by
  decide
theorem witness_IdleCoreHoldsItsState : (openAt .mode2 none).port.inputs = [] := by decide
theorem witness_PowerOnResetClearsStatus :
    ({ halfPair .mode1 with port := { inputs := [.powerOnReset], responses := [] } } : State).port.inputs
      = .powerOnReset :: [] := by decide
theorem witness_CommandsCompleteInArrivalOrder :
    (State.reset.withProgram [0x11#32, 0x6#32]).port.inputs = [0x11#32, 0x6#32].map .command ∧
      [0x11#32, 0x6#32][0]? = some 0x11#32 ∧ [0x11#32, 0x6#32][1]? = some 0x6#32 := by decide

/-! ## Witnesses: the lifecycle commands -/

theorem witness_OpenStartsAFreshStream_streaming : (openAt .mode1 none).Streaming := openAt_streaming _ _
theorem witness_OpenStartsAFreshStream_zero : ¬ closedState.Streaming ∧ (0 : Nat) = 0 := ⟨closed_not_streaming, rfl⟩
theorem witness_OpenStartsAFreshStream_modes :
    ¬ State.reset.Streaming ∧ (1, Mode.mode1) ∈ [(1, Mode.mode1), (2, Mode.mode2), (3, Mode.mode3)] ∧
      (3, Mode.mode3) ∈ [(1, Mode.mode1), (2, Mode.mode2), (3, Mode.mode3)] :=
  ⟨reset_not_streaming, by decide⟩
theorem witness_CloseEndsTheStream : ¬ closedState.Streaming ∧ (halfPair .mode1).Streaming :=
  ⟨closed_not_streaming, halfPair_streaming _⟩

/-! ## Witnesses: the data commands -/

theorem witness_EncodeFirstSampleOfAPair :
    (openAt .mode3 none).lc = .streaming .mode3 none ∧ (none : Option Direction) ≠ some .decode ∧
      (openAt .mode3 none).dsp.analysis.phase = false := by decide
theorem witness_EncodeSecondSampleOfAPair :
    (halfPair .mode2).lc = .streaming .mode2 (some .encode) ∧ some Direction.encode ≠ some .decode ∧
      (halfPair .mode2).dsp.analysis.phase = true := by decide
theorem witness_DecodeReturnsTwoSamples :
    (openAt .mode3 none).lc = .streaming .mode3 none ∧ (none : Option Direction) ≠ some .encode ∧
      63 < 4 * 2 ^ Mode.mode3.width ∧ 255 < 4 * 2 ^ Mode.mode1.width := by decide
theorem witness_DataCommandsFrame_enc :
    (∃ t, exec (.enc 32767) (openAt .mode1 none) = .next t) ∧ (openAt .mode1 none).dsp.analysis.phase = false :=
  ⟨⟨_, rfl⟩, rfl⟩
theorem witness_DataCommandsFrame_dec : ∃ t, exec (.dec 255) (openAt .mode1 none) = .next t := ⟨_, rfl⟩
theorem witness_DataCommandsFrame_errSeen : ({ openAt .mode1 none with errSeen := true } : State).errSeen = true := rfl
theorem witness_EncodeStreamReturnsOneOctetPerPair :
    (Fits16 (-32768) ∧ Fits16 32767) ∧ (openAt .mode1 none).lc = .streaming .mode1 none ∧
      (none : Option Direction) ≠ some .decode ∧ (openAt .mode1 none).dsp.analysis.phase = false ∧
      ((openAt .mode1 none).withProgram [0x80000002#32, 0x7FFF0002#32]).port.inputs =
        [((-32768 : Int), (32767 : Int))].flatMap
          (fun p => [.command (encode (.enc p.1)), .command (encode (.enc p.2))]) := by
  unfold Fits16; decide

/-! ## Witnesses: rejection -/

/-- The condition of the first row of the error table, as RejectionsFollowTheErrorTable reads it. -/
def illegalWord (w : CommandWord) : Bool :=
  let op := (w.extractLsb' 0 4).toNat
  decide (op = 0 ∨ 6 ≤ op ∨ w.extractLsb' 6 10 ≠ 0 ∨ (w.extractLsb' 4 2 ≠ 0 ∧ op ≠ 1) ∨
    (w.extractLsb' 16 16 ≠ 0 ∧ (op = 1 ∨ op = 4 ∨ op = 5)) ∨ (w.extractLsb' 24 8 ≠ 0 ∧ op = 3))

theorem witness_Rejections_illegal :
    [0x0#32, 0x6#32, 0xF#32, 0x41#32, 0x8005#32, 0x12#32, 0x35#32, 0x10001#32, 0x80000004#32, 0x10005#32,
      0x1000003#32].all illegalWord = true := by decide
theorem witness_Rejections_open_while_streaming :
    illegalWord 0x1#32 = false ∧ illegalWord 0x31#32 = false ∧ (0x31#32 : CommandWord).extractLsb' 0 4 = 1#4 ∧
      (openAt .mode1 none).Streaming := ⟨by decide, by decide, by decide, openAt_streaming _ _⟩
theorem witness_Rejections_no_stream :
    illegalWord 0xFFFF0002#32 = false ∧ illegalWord 0xFF0003#32 = false ∧ illegalWord 0x4#32 = false ∧
      ¬ State.reset.Streaming := ⟨by decide, by decide, by decide, reset_not_streaming⟩
theorem witness_Rejections_direction :
    (openAt .mode2 (some .decode)).lc = .streaming .mode2 (some .decode) ∧
      (halfPair .mode2).lc = .streaming .mode2 (some .encode) := by decide
theorem witness_Rejections_open_zero :
    illegalWord 0x1#32 = false ∧ (0x1#32 : CommandWord).extractLsb' 4 2 = 0 ∧ ¬ closedState.Streaming :=
  ⟨by decide, by decide, closed_not_streaming⟩
theorem witness_Rejections_padding :
    illegalWord 0x800003#32 = false ∧ illegalWord 0x400003#32 = false ∧
      (0x800003#32 : CommandWord).getLsbD 23 = true ∧ (0x400003#32 : CommandWord).getLsbD 22 = true ∧
      (openAt .mode3 (some .decode)).lc = .streaming .mode3 (some .decode) ∧
      (openAt .mode2 none).lc = .streaming .mode2 none := by decide
theorem witness_CommandsWithoutACauseAreAccepted :
    ¬ closedState.Streaming ∧ (1 ≤ 1 ∧ 3 ≤ 3) ∧ (openAt .mode2 none).lc = .streaming .mode2 none ∧
      (none : Option Direction) ≠ some .decode ∧ (none : Option Direction) ≠ some .encode ∧
      127 < 4 * 2 ^ Mode.mode2.width := ⟨closed_not_streaming, by decide⟩
theorem witness_RejectionIsAtomic :
    ∃ t, exec (.dec 64) (openAt .mode3 none) = .next t ∧ t.lastErr = some .invalidInput := ⟨_, rfl, rfl⟩
theorem witness_EveryCommandReturnsOneResponse :
    ∃ t, (State.reset.offer 0x2#32).port.inputs = .command 0x2#32 :: [] ∧
      step (State.reset.offer 0x2#32) = .next t ∧ t.lastErr ≠ none := ⟨_, rfl, rfl, by decide⟩
theorem witness_EveryCommandReturnsOneResponse_kinds :
    (respNone.extractLsb' 4 2 = 0#2) ∧ ((respOctet 255).extractLsb' 4 2 = 1#2) ∧
      ((respStatus 0x7FF#16).extractLsb' 4 2 ≠ 2#2) := by decide
theorem witness_ErrSeenIsSticky :
    ∃ t, (State.reset.offer 0x4#32).port.inputs = .command 0x4#32 :: [] ∧
      step (State.reset.offer 0x4#32) = .next t ∧ t.errSeen = true := ⟨_, rfl, rfl, rfl⟩
theorem witness_LifecycleTransitions : ∃ t, exec .close (halfPair .mode1) = .next t ∧ t.lc = .closed := ⟨_, rfl, rfl⟩

/-! ## Witnesses: the blocks -/

theorem witness_QuantlCodeRanges : (0 : Int) ≤ 0 ∧ (-1 : Int) < 0 ∧ quantl 0 32 = 58 ∧ quantl (-1) 32 = 30 := by
  decide +kernel
theorem witness_QuantizedDifferencesAreBounded : (0 : Int) ≤ 16384 ∧ (16384 : Int) ≤ 16384 := by decide
theorem witness_StepSizeFollowsTheAccumulator :
    (0 : Int) ≤ 0 ∧ (0 : Int) ≤ 18432 ∧ (18432 : Int) ≤ 18432 ∧ (22528 : Int) ≤ 22528 := by decide
theorem witness_LowDecoderTracksTheEncoder :
    Mode.mode3.width ≤ Mode.mode1.width ∧ Mode.mode2.width ≤ Mode.mode2.width := by decide
theorem witness_CoresStayInStepOnEveryOctet :
    (halfPair .mode1).lc = .streaming .mode1 (some .encode) ∧ some Direction.encode ≠ some .decode ∧
      (halfPair .mode1).dsp.analysis.phase = true ∧ (openAt .mode1 none).lc = .streaming .mode1 none ∧
      (none : Option Direction) ≠ some .encode ∧ (halfPair .mode1).dsp.low = (openAt .mode1 none).dsp.low ∧
      (halfPair .mode1).dsp.high = (openAt .mode1 none).dsp.high := by decide
theorem witness_CoresStayInStepOnEveryOctet_first_sample :
    (openAt .mode3 none).lc = .streaming .mode3 none ∧ (none : Option Direction) ≠ some .decode ∧
      (none : Option Direction) ≠ some .encode ∧ (openAt .mode3 none).dsp.analysis.phase = false := by decide
theorem witness_ModeChangesOnlyTheLowCode :
    (halfPair .mode1).lc = .streaming .mode1 (some .encode) ∧ (halfPair .mode3).lc = .streaming .mode3 (some .encode) ∧
      some Direction.encode ≠ some .decode ∧ (halfPair .mode1).dsp = (halfPair .mode3).dsp ∧
      (halfPair .mode1).dsp.analysis.phase = true := by decide
theorem witness_ModeChangesOnlyTheLowCode_decode :
    63 / 2 ^ (Mode.mode1.width - 4) = 15 / 2 ^ (Mode.mode3.width - 4) := by decide
theorem witness_UnpackInvertsPack : 63 < 2 ^ Mode.mode1.width ∧ 15 < 2 ^ Mode.mode3.width ∧ 3 < 4 := by decide
theorem witness_SynthesisJoinsThePair : 10 < 11 := by decide
theorem witness_InnerValuesFitIn32Bits :
    (∀ v ∈ (ShiftReg.const 24 (-32768)).taps, Fits16 v) ∧ (∀ v ∈ (ShiftReg.const 12 (-16384)).taps, Fits15 v) ∧
      Fits16 (-32768) ∧ (0 : Int) ≤ 16384 ∧ (22528 : Int) ≤ 22528 := by
  unfold Fits16 Fits15; decide
theorem witness_TableIndicesAreInRange : 15 < rl42.length ∧ 3 < rh2.length := by decide
theorem witness_TablesAgreeWithEachOther :
    29 < 30 ∧ 30 < 31 ∧ 4 ≤ 63 ∧ |tabInt qm4 7| < |tabInt qm4 8| ∧ 6 < 7 := by decide

/-! ## Witnesses: the invariant and the whole-machine rules -/

theorem streamStart_low_inv : (Band.streamStart 32).Inv .low := by
  constructor <;> (first | decide | (unfold Within; decide) | (unfold Fits16; decide))
theorem streamStart_high_inv : (Band.streamStart 8).Inv .high := by
  constructor <;> (first | decide | (unfold Within; decide) | (unfold Fits16; decide))

/-- A state with an open stream that meets the invariant, and a command that steps it. -/
theorem witness_StepKeepsTheInvariant :
    ((openAt .mode1 none).offer 0x00FA0003#32).Inv ∧
      ∃ t, step ((openAt .mode1 none).offer 0x00FA0003#32) = .next t := by
  refine ⟨⟨fun e h => (by cases h), fun m d h => ?_⟩, ⟨_, rfl⟩⟩
  cases h
  exact
    { low := streamStart_low_inv
      high := streamStart_high_inv
      analysisRange := by unfold Fits16; decide
      synthesisRange := by unfold Fits15; decide
      analysisIdle := fun _ => rfl
      synthesisIdle := fun _ => rfl
      freshUnlocked := fun _ => rfl }

/-- Two states without a stream that differ in DSP content, and an OPEN that steps the first. -/
theorem witness_UnheldContentIsNeverRead :
    (closedState.offer 0x11#32).SameHeld (({ closedState with dsp := Dsp.streamStart } : State).offer 0x11#32) ∧
      closedState.dsp ≠ Dsp.streamStart ∧ ∃ t, step (closedState.offer 0x11#32) = .next t :=
  ⟨⟨rfl, rfl, rfl, rfl, fun h => absurd h (by rintro ⟨_, _, h'⟩; cases h')⟩, by decide, ⟨_, rfl⟩⟩

theorem witness_FirstTicksOfAModeOneStream :
    (openAt .mode1 none).lc = .streaming .mode1 none ∧ (openAt .mode1 none).dsp = Dsp.streamStart := ⟨rfl, rfl⟩

end Sys2Proof.Tests
end

/-! PROOFS. The invariant of the state: the reset state meets it and every step keeps it (R24 to R34, R38). -/

namespace Sys2Proof.Machine

/-! ## The bands and the DSP state of a stream -/

/-- A band at the start of a stream meets its invariant when its `det` is the step size of `nb = 0` (R39). -/
theorem Band.streamStart_inv {k : BandKind} {det : Int} (hnb : 0 ≤ k.nbMax) (hd : 0 ≤ k.dMax)
    (hdet : det = scale k.base 0) (hrange : k.detMin ≤ det ∧ det ≤ 16384) (hmul : det % 4 = 0) :
    (Band.streamStart det).Inv k := by
  have h16 : Fits16 0 := ⟨by decide, by decide⟩
  have hd0 : Within k.dMax 0 := ⟨by omega, hd⟩
  exact
    { nbRange := ⟨le_rfl, hnb⟩
      detOfNb := hdet
      detRange := hrange
      detMultiple := hmul
      a2Range := (⟨by decide, by decide⟩ : Within 12288 0)
      a1Range := (⟨by decide, by decide⟩ : Within (15360 - 0) 0)
      bRange := ⟨h16, h16, h16, h16, h16, h16⟩
      dRange := ⟨hd0, hd0, hd0, hd0, hd0, hd0, hd0⟩
      rRange := ⟨h16, h16, h16⟩
      pRange := ⟨h16, h16, h16⟩
      predRange := ⟨h16, h16, h16⟩
      copies := ⟨rfl, rfl, rfl⟩ }

/-- OPEN leaves a DSP state that meets the invariant of a stream without a direction (R39, R230). -/
theorem Dsp.streamStart_inv : Dsp.streamStart.Inv none where
  low := Band.streamStart_inv (by decide) (by decide) (by decide) (by decide) (by decide)
  high := Band.streamStart_inv (by decide) (by decide) (by decide) (by decide) (by decide)
  analysisRange := ShiftReg.forall_const ⟨by decide, by decide⟩
  synthesisRange := ⟨ShiftReg.forall_const ⟨by decide, by decide⟩, ShiftReg.forall_const ⟨by decide, by decide⟩⟩
  analysisIdle := fun _ => rfl
  synthesisIdle := fun _ => rfl
  freshUnlocked := fun _ => rfl

/-- ANALYSIS_PUSH of a 16-bit sample keeps the invariant and locks the stream to encoding (R210, R238). -/
theorem Dsp.Inv.analysisPush {dir : Option Direction} {d : Dsp} (h : d.Inv dir) (hdir : dir ≠ some .decode)
    {pcm : Int} (hpcm : Fits16 pcm) (phase : Bool) :
    ({ d with analysis := { x := d.analysis.x.push pcm, phase := phase } } : Dsp).Inv (some .encode) where
  low := h.low
  high := h.high
  analysisRange := ShiftReg.forall_push hpcm h.analysisRange
  synthesisRange := h.synthesisRange
  analysisIdle := fun hne => absurd rfl hne
  synthesisIdle := fun _ => h.synthesisIdle hdir
  freshUnlocked := nofun

/-- The encode tick of both bands keeps the invariant of an encode stream (R231). -/
theorem Dsp.Inv.encodeTick {d : Dsp} (h : d.Inv (some .encode)) (md : Mode) (pair : Int × Int) :
    (encodeTick md pair d).2.Inv (some .encode) where
  low := lowTick_inv h.low _
  high := highTick_inv h.high _
  analysisRange := h.analysisRange
  synthesisRange := h.synthesisRange
  analysisIdle := fun hne => absurd rfl hne
  synthesisIdle := h.synthesisIdle
  freshUnlocked := nofun

/-- The decode tick keeps the invariant and locks the stream to decoding (R213, R233, R238). -/
theorem Dsp.Inv.decodeTick {dir : Option Direction} {d : Dsp} (h : d.Inv dir) (hdir : dir ≠ some .encode)
    (md : Mode) (il ih : Nat) : (decodeTick md il ih d).2.Inv (some .decode) where
  low := lowTick_inv h.low _
  high := highTick_inv h.high _
  analysisRange := h.analysisRange
  synthesisRange := ⟨ShiftReg.forall_push (fits15_clamp14 _) h.synthesisRange.1,
    ShiftReg.forall_push (fits15_clamp14 _) h.synthesisRange.2⟩
  analysisIdle := fun _ => h.analysisIdle hdir
  synthesisIdle := fun hne => absurd rfl hne
  freshUnlocked := nofun

/-! ## The shared operations -/

/-- A rejection keeps the invariant: it sets both error fields and leaves the stream alone (R264). -/
theorem State.Inv.reject {s : State} (h : s.Inv) (e : Error) : (s.reject e).Inv where
  errors := fun _ _ => rfl
  stream := h.stream

/-- An accepted command shows no error, so only the stream it leaves counts (R237). -/
theorem State.inv_accept {s : State} (r : ResponseWord)
    (h : ∀ mode dir, s.lc = .streaming mode dir → s.dsp.Inv dir) : (s.accept r).Inv where
  errors := nofun
  stream := h

/-- An accepted command that leaves the stream locked as `dir` with the DSP state `d`. -/
theorem State.inv_accept_streaming (s : State) (r : ResponseWord) (md : Mode) {dir : Option Direction} {d : Dsp}
    (h : d.Inv dir) : (State.accept r { s with lc := .streaming md dir, dsp := d }).Inv :=
  State.inv_accept r fun _ _ hlc => by cases hlc; exact h

theorem State.powerOn_inv (s : State) : s.powerOn.Inv where
  errors := nofun
  stream := nofun

/-- The invariant does not speak of the port. -/
theorem State.Inv.withPort {s : State} (h : s.Inv) (p : Port) : ({ s with port := p } : State).Inv where
  errors := h.errors
  stream := h.stream

/-! ## Commands and steps -/

/-- Only the row of ENC decodes to an ENC, and its operand is the sample field of the word (R81, R83). -/
theorem pcm_of_decode_enc {w : CommandWord} {pcm : Int} (h : decode w = some (.enc pcm)) :
    CommandWord.pcm w = pcm := by
  unfold decode at h
  repeat' split at h
  all_goals cases h
  rfl

/-- A decoded sample is a signed 16-bit integer (R81). -/
theorem fits16_of_decode_enc {w : CommandWord} {pcm : Int} (h : decode w = some (.enc pcm)) : Fits16 pcm := by
  rw [← pcm_of_decode_enc h]
  exact ⟨BitVec.le_toInt (w.extractLsb' 16 16), Int.le_of_lt_add_one (BitVec.toInt_lt (x := w.extractLsb' 16 16))⟩

/-- A command whose sample, if it has one, fits 16 bits keeps the invariant. -/
theorem exec_keeps_inv {i : Instr} {s t : State} (hi : ∀ pcm, i = .enc pcm → Fits16 pcm) (h : s.Inv)
    (ht : exec i s = .next t) : t.Inv := by
  obtain ⟨e, hx⟩ | ⟨m, md, -, -, -, hx⟩ | ⟨-, -, hx⟩ | ⟨-, hx⟩ | ⟨pcm, md, dir, r, d, rfl, hlc, hdir, hd, hx⟩ |
    ⟨octet, md, dir, -, hlc, hdir, -, hx⟩ := exec_cases i s <;>
    (rw [hx] at ht; cases ht)
  · exact h.reject e
  · exact State.inv_accept_streaming s _ md Dsp.streamStart_inv
  · exact State.inv_accept _ nofun
  · exact State.inv_accept _ h.stream
  · have hpush := (h.stream md dir hlc).analysisPush hdir (hi pcm rfl)
    refine State.inv_accept_streaming s r md ?_
    obtain ⟨-, -, rfl⟩ | ⟨-, o, -, ho⟩ := hd
    · exact hpush true
    · rw [show d = _ from congrArg Prod.snd ho]
      exact (hpush false).encodeTick md _
  · exact State.inv_accept_streaming s _ md ((h.stream md dir hlc).decodeTick hdir md _ _)

/-- A step on whatever input keeps the invariant. -/
theorem step_keeps_inv {s t : State} (h : s.Inv) (ht : step s = .next t) : t.Inv := by
  obtain ⟨-, hx⟩ | ⟨rest, -, hx⟩ | ⟨w, rest, -, -, hx⟩ | ⟨w, rest, i, -, hw, hx⟩ := step_cases s <;> rw [hx] at ht
  · cases ht; exact h
  · cases ht; exact State.powerOn_inv _
  · cases ht; exact (h.withPort _).reject _
  · exact exec_keeps_inv (fun pcm hi => fits16_of_decode_enc (hi ▸ hw)) (h.withPort _) ht

/-- Settles O47: the cases of a step, and for an accepted data command the invariant each filter and band tick keeps. -/
theorem stepKeepsTheInvariant : Obligations.StepKeepsTheInvariant := fun _ _ h ht => step_keeps_inv h ht

/-- Settles O46: after reset no stream is open and no error is shown. -/
theorem resetMeetsTheInvariant : Obligations.ResetMeetsTheInvariant where
  errors := nofun
  stream := nofun

end Sys2Proof.Machine

/-! PROOFS. No command reads DSP content that holds no value (R23, R291): `State.SameHeld` is kept by every shared
operation, so by every command, so by every step. -/

namespace Sys2Proof.Machine

/-- Both sides answer a next state, and the two differ at most in DSP content that holds no value. -/
def SameHeldAnswers (o o' : Host.Outcome State Fault Refusal) : Prop :=
  ∃ s t : State, o = .next s ∧ o' = .next t ∧ s.SameHeld t

/-! ## The shared operations -/

section
variable {s t : State} (h : s.SameHeld t)
include h

theorem State.SameHeld.not_streaming (hs : ¬ s.Streaming) : ¬ t.Streaming := by
  rintro ⟨md, dir, ht⟩
  exact hs ⟨md, dir, h.lc.trans ht⟩

theorem State.SameHeld.lc_right {lc : Lifecycle} (hs : s.lc = lc) : t.lc = lc := h.lc.symm.trans hs

theorem State.SameHeld.dsp_of_lc {md : Mode} {dir : Option Direction} (hs : s.lc = .streaming md dir) :
    s.dsp = t.dsp := h.dsp ⟨md, dir, hs⟩

/-- The two states still agree when both take the same input. -/
theorem State.SameHeld.withPort (p : Port) :
    ({ s with port := p } : State).SameHeld { t with port := p } :=
  ⟨h.lc, h.errSeen, h.lastErr, rfl, h.dsp⟩

theorem State.SameHeld.respond (r : ResponseWord) : (s.respond r).SameHeld (t.respond r) :=
  ⟨h.lc, h.errSeen, h.lastErr, by simp only [State.respond, h.port], h.dsp⟩

theorem State.SameHeld.reject (e : Error) : SameHeldAnswers (.next (s.reject e)) (.next (t.reject e)) := by
  have hfields : ({ s with lastErr := some e, errSeen := true } : State).SameHeld
      { t with lastErr := some e, errSeen := true } := ⟨h.lc, rfl, rfl, h.port, h.dsp⟩
  exact ⟨_, _, rfl, rfl, hfields.respond _⟩

theorem State.SameHeld.accept (r : ResponseWord) : SameHeldAnswers (.next (s.accept r)) (.next (t.accept r)) := by
  have hfields : ({ s with lastErr := none } : State).SameHeld { t with lastErr := none } :=
    ⟨h.lc, h.errSeen, rfl, h.port, h.dsp⟩
  exact ⟨_, _, rfl, rfl, hfields.respond _⟩

/-- An accepted command that gives both states one lifecycle state and one DSP state. -/
theorem State.SameHeld.accept_stream (r : ResponseWord) (lc : Lifecycle) (d : Dsp) :
    SameHeldAnswers (.next (State.accept r { s with lc := lc, dsp := d }))
      (.next (State.accept r { t with lc := lc, dsp := d })) := by
  have hfields : ({ s with lc := lc, dsp := d } : State).SameHeld { t with lc := lc, dsp := d } :=
    ⟨rfl, h.errSeen, h.lastErr, h.port, fun _ => rfl⟩
  exact hfields.accept r

/-- Dropping the DSP state and closing the stream: the content each is left with is never compared (R235). -/
theorem State.SameHeld.close : ({ s.dropDsp with lc := .closed } : State).SameHeld { t.dropDsp with lc := .closed } :=
  ⟨rfl, h.errSeen, h.lastErr, h.port, nofun⟩

theorem State.SameHeld.powerOn : s.powerOn.SameHeld t.powerOn := ⟨rfl, rfl, rfl, h.port, nofun⟩

/-- `PHASE` is read only of an open stream (R32). -/
theorem State.SameHeld.phaseBit : s.phaseBit = t.phaseBit := by
  unfold State.phaseBit
  rw [← h.lc]
  split
  case h_1 md dir hs => rw [h.dsp_of_lc hs]
  case h_2 => rfl

theorem State.SameHeld.statusWord : statusWord s = statusWord t := by
  simp only [Machine.statusWord, h.lc, h.errSeen, h.lastErr, h.phaseBit]

/-! ## The commands -/

theorem State.SameHeld.execOpen (m : Nat) : SameHeldAnswers (execOpen m s) (execOpen m t) := by
  by_cases hs : s.Streaming
  · obtain ⟨md, dir, hlc⟩ := hs
    rw [execOpen_streaming hlc, execOpen_streaming (h.lc_right hlc)]
    exact h.reject _
  · cases hm : Mode.ofField m with
    | none =>
      rw [execOpen_invalid hs hm, execOpen_invalid (h.not_streaming hs) hm]
      exact h.reject _
    | some md =>
      rw [execOpen_ok hs hm, execOpen_ok (h.not_streaming hs) hm]
      exact h.accept_stream _ _ _

theorem State.SameHeld.execClose : SameHeldAnswers (execClose s) (execClose t) := by
  by_cases hs : s.Streaming
  · obtain ⟨md, dir, hlc⟩ := hs
    rw [execClose_ok hlc, execClose_ok (h.lc_right hlc)]
    exact h.close.accept _
  · rw [execClose_invalid hs, execClose_invalid (h.not_streaming hs)]
    exact h.reject _

theorem State.SameHeld.execEnc (pcm : Int) : SameHeldAnswers (execEnc pcm s) (execEnc pcm t) := by
  by_cases hs : s.Streaming
  · obtain ⟨md, dir, hlc⟩ := hs
    have ht := h.lc_right hlc
    have hdsp := h.dsp_of_lc hlc
    by_cases hd : dir = some .decode
    · rw [execEnc_mismatch (hd ▸ hlc), execEnc_mismatch (hd ▸ ht)]
      exact h.reject _
    · cases hp : s.dsp.analysis.phase with
      | false =>
        rw [execEnc_none hlc hd hp, execEnc_none ht hd (hdsp ▸ hp), ← hdsp]
        exact h.accept_stream _ _ _
      | true =>
        rw [execEnc_octet hlc hd hp, execEnc_octet ht hd (hdsp ▸ hp), ← hdsp]
        exact h.accept_stream _ _ _
  · rw [execEnc_invalid hs, execEnc_invalid (h.not_streaming hs)]
    exact h.reject _

theorem State.SameHeld.execDec (octet : Nat) : SameHeldAnswers (execDec octet s) (execDec octet t) := by
  by_cases hs : s.Streaming
  · obtain ⟨md, dir, hlc⟩ := hs
    have ht := h.lc_right hlc
    by_cases hd : dir = some .encode
    · rw [execDec_mismatch (hd ▸ hlc), execDec_mismatch (hd ▸ ht)]
      exact h.reject _
    · by_cases hp : (unpack octet md).pad = 0
      · rw [execDec_ok hlc hd hp, execDec_ok ht hd hp, ← h.dsp_of_lc hlc]
        exact h.accept_stream _ _ _
      · rw [execDec_padding hlc hd hp, execDec_padding ht hd hp]
        exact h.reject _
  · rw [execDec_invalid hs, execDec_invalid (h.not_streaming hs)]
    exact h.reject _

theorem State.SameHeld.execStatus : SameHeldAnswers (execStatus s) (execStatus t) := by
  unfold Machine.execStatus
  rw [← h.statusWord]
  exact h.accept _

theorem State.SameHeld.exec (i : Instr) : SameHeldAnswers (exec i s) (exec i t) := by
  cases i with
  | openStream m => exact h.execOpen m
  | enc pcm => exact h.execEnc pcm
  | dec octet => exact h.execDec octet
  | close => exact h.execClose
  | status => exact h.execStatus

/-- Both states take the same input, and it does the same to both. -/
theorem State.SameHeld.step : SameHeldAnswers (step s) (step t) := by
  match hin : s.port.inputs with
  | [] =>
    simp only [Machine.step, State.takeInput_nil hin, State.takeInput_nil (h.port ▸ hin)]
    exact ⟨s, t, rfl, rfl, h⟩
  | i :: rest =>
    have hpop := h.withPort { s.port with inputs := rest }
    simp only [Machine.step, State.takeInput_cons hin, State.takeInput_cons (h.port ▸ hin), ← h.port]
    cases i with
    | powerOnReset => exact ⟨_, _, rfl, rfl, hpop.powerOn⟩
    | command w =>
      simp only [runCommand]
      cases decode w with
      | none => exact hpop.reject _
      | some i => exact hpop.exec i

end

/-- Settles O48: what a step reads of the DSP state it reads of an open stream, whose content the two states share. -/
theorem unheldContentIsNeverRead : Obligations.UnheldContentIsNeverRead := by
  intro s t s' h hs
  obtain ⟨u, t', hu, ht, hsame⟩ := h.step
  rw [hs] at hu
  cases hu
  exact ⟨t', ht, hsame⟩

end Sys2Proof.Machine

/-! PROOFS. What a command leaves alone, and how it may change the status fields (R32 to R34, R238, R264): each
is read off `exec_cases`. -/

namespace Sys2Proof.Machine

/-! ## Every command -/

/-- A command returns one response and takes no further input (R69, R86). -/
theorem exec_port {i : Instr} {s t : State} (ht : exec i s = .next t) :
    t.port.inputs = s.port.inputs ∧ ∃ r, t.port.responses = s.port.responses ++ [r] := by
  obtain ⟨e, hx⟩ | ⟨m, md, -, -, -, hx⟩ | ⟨-, -, hx⟩ | ⟨-, hx⟩ | ⟨pcm, md, dir, r, d, -, -, -, -, hx⟩ |
    ⟨octet, md, dir, -, -, -, -, hx⟩ := exec_cases i s <;>
  · rw [hx] at ht; cases ht
    exact ⟨rfl, _, rfl⟩

/-- `ERR_SEEN` after a command: set before, or set by its rejection (R33, R264). -/
theorem exec_errSeen_iff {i : Instr} {s t : State} (ht : exec i s = .next t) :
    t.errSeen = true ↔ s.errSeen = true ∨ t.lastErr ≠ none := by
  obtain ⟨e, hx⟩ | ⟨m, md, -, -, -, hx⟩ | ⟨-, -, hx⟩ | ⟨-, hx⟩ | ⟨pcm, md, dir, r, d, -, -, -, -, hx⟩ |
    ⟨octet, md, dir, -, -, -, -, hx⟩ := exec_cases i s <;>
  · rw [hx] at ht; cases ht
    simp

/-- Settles O25: a malformed word is rejected, and every decoded command obeys `exec_errSeen_iff`. -/
theorem errSeenIsSticky : Obligations.ErrSeenIsSticky := by
  intro s t w rest hin ht
  obtain ⟨hin', -⟩ | ⟨rest', hin', -⟩ | ⟨w', rest', -, -, hx⟩ | ⟨w', rest', i, -, -, hx⟩ := step_cases s
  · cases hin.symm.trans hin'
  · cases hin.symm.trans hin'
  · rw [hx] at ht; cases ht
    simp
  · rw [hx] at ht
    have hiff := exec_errSeen_iff ht
    exact hiff

/-- Settles O26: a rejection and STATUS keep the lifecycle, and each other accepted command makes its own change. -/
theorem lifecycleTransitions : Obligations.LifecycleTransitions := by
  intro i s t ht
  obtain ⟨e, hx⟩ | ⟨m, md, hi, -, hs, hx⟩ | ⟨hi, hs, hx⟩ | ⟨-, hx⟩ | ⟨pcm, md, dir, r, d, hi, hlc, hdir, -, hx⟩ |
    ⟨octet, md, dir, hi, hlc, hdir, -, hx⟩ := exec_cases i s <;>
    (rw [hx] at ht; cases ht)
  · exact .inl rfl
  · exact .inr (.inl ⟨m, md, hi, hs, rfl⟩)
  · exact .inr (.inr (.inl ⟨hi, hs, rfl⟩))
  · exact .inl rfl
  · rcases dir with _ | (_ | _)
    · exact .inr (.inr (.inr (.inl ⟨pcm, md, hi, hlc, rfl⟩)))
    · exact .inl hlc.symm
    · exact absurd rfl hdir
  · rcases dir with _ | (_ | _)
    · exact .inr (.inr (.inr (.inr ⟨octet, md, hi, hlc, rfl⟩)))
    · exact absurd rfl hdir
    · exact .inl hlc.symm

/-! ## The data commands -/

/-- Locking the direction keeps the MODE field (R238). -/
theorem modeField_streaming {s : State} {md : Mode} {dir : Option Direction} (h : s.lc = .streaming md dir)
    (dir' : Option Direction) : (Lifecycle.streaming md dir').modeField = s.lc.modeField := by
  rw [h]; rfl

/-- What ENC leaves alone: the synthesis filter, `drops`, the mode, and on a first sample both bands (R34, R231). -/
theorem exec_enc_frame {pcm : Int} {s t : State} (ht : exec (.enc pcm) s = .next t) :
    t.dsp.synthesis = s.dsp.synthesis ∧ t.drops = s.drops ∧ t.lc.modeField = s.lc.modeField ∧
      (s.dsp.analysis.phase = false → t.dsp.low = s.dsp.low ∧ t.dsp.high = s.dsp.high) := by
  obtain ⟨e, hx⟩ | ⟨m, md, hi, -⟩ | ⟨hi, -⟩ | ⟨hi, -⟩ | ⟨pcm', md, dir, r, d, -, hlc, -, hd, hx⟩ |
    ⟨octet, md, dir, hi, -⟩ := exec_cases (.enc pcm) s
  · rw [hx] at ht; cases ht
    exact ⟨rfl, rfl, rfl, fun _ => ⟨rfl, rfl⟩⟩
  · cases hi
  · cases hi
  · cases hi
  · rw [hx] at ht; cases ht
    obtain ⟨-, -, rfl⟩ | ⟨hp, o, -, ho⟩ := hd
    · exact ⟨rfl, rfl, modeField_streaming hlc _, fun _ => ⟨rfl, rfl⟩⟩
    · cases ho
      exact ⟨rfl, rfl, modeField_streaming hlc _, fun hp' => absurd (hp'.symm.trans hp) (by decide)⟩
  · cases hi

/-- What DEC leaves alone: the analysis filter, `drops` and the mode (R34, R233). -/
theorem exec_dec_frame {octet : Nat} {s t : State} (ht : exec (.dec octet) s = .next t) :
    t.dsp.analysis = s.dsp.analysis ∧ t.drops = s.drops ∧ t.lc.modeField = s.lc.modeField := by
  obtain ⟨e, hx⟩ | ⟨m, md, hi, -⟩ | ⟨hi, -⟩ | ⟨hi, -⟩ | ⟨pcm, md, dir, r, d, hi, -⟩ |
    ⟨octet', md, dir, -, hlc, -, -, hx⟩ := exec_cases (.dec octet) s
  · rw [hx] at ht; cases ht
    exact ⟨rfl, rfl, rfl⟩
  · cases hi
  · cases hi
  · cases hi
  · cases hi
  · rw [hx] at ht; cases ht
    exact ⟨rfl, rfl, modeField_streaming hlc _⟩

/-- Settles O19: the frame of each data command, with what every command does to the port and to `ERR_SEEN`. -/
theorem dataCommandsFrame : Obligations.DataCommandsFrame := by
  intro s t
  refine ⟨fun pcm ht => ?_, fun octet ht => ?_⟩
  · obtain ⟨hinputs, hresp⟩ := exec_port ht
    obtain ⟨hsyn, hdrops, hmode, hbands⟩ := exec_enc_frame ht
    exact ⟨hsyn, hinputs, hdrops, hresp, fun he => (exec_errSeen_iff ht).mpr (.inl he), hmode, hbands⟩
  · obtain ⟨hinputs, hresp⟩ := exec_port ht
    obtain ⟨hana, hdrops, hmode⟩ := exec_dec_frame ht
    exact ⟨hana, hinputs, hdrops, hresp, fun he => (exec_errSeen_iff ht).mpr (.inl he), hmode⟩

end Sys2Proof.Machine

/-! PROOFS. The blocks' bounds (R28, R29), the step on a command and on the power-on reset, OPEN, and the fields of the
STATUS register. -/

namespace Sys2Proof.Machine

/-! ## Bounds of the blocks -/

/-- Settles O31: the closed forms hold by definition, the bounds are those of the tables scaled by at most a half. -/
theorem quantizedDifferencesAreBounded : Obligations.QuantizedDifferencesAreBounded := by
  intro det md il ril ih
  refine ⟨rfl, ?_, rfl, fun h₁ h₂ =>
    ⟨invqal_within h₁ h₂ ril, invqbl_within h₁ h₂ md il, invqah_within h₁ h₂ ih⟩⟩
  cases md <;> rfl

/-- Settles O35: UPPOL2 and UPPOL1 end in the clamps of R28, the second with the new `a2`. -/
theorem poleCoefficientsStayStable : Obligations.PoleCoefficientsStayStable := by
  intro dq b
  have h₂ := uppol2_within (adaptSignals dq b)
  rw [adapt_a1, adapt_a2]
  exact ⟨abs_le.mpr h₂, abs_le.mpr (uppol1_within h₂ _)⟩

/-! ## The step -/

/-- Settles O6: the head of the queue is taken and decoded. -/
theorem stepRunsTheDecodedCommand : Obligations.StepRunsTheDecodedCommand := by
  intro s w rest i hin hw
  simp only [step, State.takeInput_cons hin, runCommand, hw]

/-- STATUS is 0 after the power-on reset input, whatever the DSP fields contain (R38, R290). -/
theorem statusWord_powerOn (s : State) : statusWord s.powerOn = 0#16 := by
  have hphase : s.powerOn.phaseBit = false := rfl
  rw [statusWord, hphase, State.powerOn_lc, State.powerOn_errSeen, State.powerOn_lastErr]
  decide

/-- Settles O8: the reset input is taken, and `State.powerOn` gives every status field its value of R38. -/
theorem powerOnResetClearsStatus : Obligations.PowerOnResetClearsStatus := by
  intro s rest hin
  refine ⟨State.powerOn { s with port := { s.port with inputs := rest } }, ?_, statusWord_powerOn _, rfl, rfl, rfl,
    nofun, rfl⟩
  simp only [step, State.takeInput_cons hin]

/-- Settles O9: every status field of the reset state is 0, and its port is empty. -/
theorem resetIsIdleWithStatusZero : Obligations.ResetIsIdleWithStatusZero := ⟨rfl, by decide, rfl⟩

/-! ## OPEN -/

/-- Settles O12: the three answers of OPEN, by the lifecycle state and the mode operand. -/
theorem openStartsAFreshStream : Obligations.OpenStartsAFreshStream := by
  intro s m
  refine ⟨?_, ?_, ?_⟩
  · rintro ⟨md, dir, hlc⟩
    exact execOpen_streaming hlc m
  · rintro hs rfl
    exact execOpen_invalid hs (m := 0) rfl
  · intro md hs hm
    have hfield : Mode.ofField m = some md := by
      simp only [List.mem_cons, Prod.mk.injEq, List.not_mem_nil, or_false] at hm
      rcases hm with ⟨rfl, rfl⟩ | ⟨rfl, rfl⟩ | ⟨rfl, rfl⟩ <;> rfl
    exact execOpen_ok hs hfield

/-! ## The STATUS register -/

/-- Every field of STATUS by its place (R32). -/
theorem statusWord_fields (s : State) :
    (statusWord s).extractLsb' 0 2 = s.lc.lcField ∧ (statusWord s).extractLsb' 2 2 = s.lc.modeField ∧
      (statusWord s).extractLsb' 4 2 = s.lc.dirField ∧ (statusWord s).getLsbD 6 = s.phaseBit ∧
      (statusWord s).getLsbD 7 = s.errSeen ∧ (statusWord s).extractLsb' 8 3 = errCode s.lastErr ∧
      (statusWord s).extractLsb' 11 5 = 0#5 := by
  have h₀ : (0#5).toNat = 0 := rfl
  have h₁ := (errCode s.lastErr).isLt
  have h₂ := s.errSeen.toNat_lt
  have h₃ := s.phaseBit.toNat_lt
  have h₄ := s.lc.dirField.isLt
  have h₅ := s.lc.modeField.isLt
  have h₆ := s.lc.lcField.isLt
  have hfield {i n : Nat} {v : BitVec n} (h : (statusWord s).toNat / 2 ^ i % 2 ^ n = v.toNat) :
      (statusWord s).extractLsb' i n = v := by
    apply BitVec.eq_of_toNat_eq
    rw [BitVec.extractLsb'_toNat, Nat.shiftRight_eq_div_pow, h]
  have hbit {i : Nat} {b : Bool} (h : (statusWord s).toNat / 2 ^ i % 2 ^ 1 = b.toNat) :
      (statusWord s).getLsbD i = b := by
    simpa using congrArg (BitVec.getLsbD · 0) (hfield (h.trans (BitVec.toNat_ofBool b).symm))
  rw [statusWord_toNat] at hfield hbit
  refine ⟨hfield ?_, hfield ?_, hfield ?_, hbit ?_, hbit ?_, hfield ?_, hfield ?_⟩ <;> omega

theorem State.phaseBit_iff (s : State) : s.phaseBit = true ↔ s.Streaming ∧ s.dsp.analysis.phase = true := by
  by_cases hs : s.Streaming
  · obtain ⟨md, dir, hlc⟩ := hs
    rw [State.phaseBit_streaming hlc]
    exact ⟨fun hp => ⟨⟨md, dir, hlc⟩, hp⟩, And.right⟩
  · refine ⟨fun hp => ?_, fun h => absurd h.1 hs⟩
    unfold State.phaseBit at hp
    split at hp
    · exact absurd ⟨_, _, ‹_›⟩ hs
    · cases hp

/-- Settles O15: the places of `statusWord_fields`, with the codes of each field. -/
theorem statusRegisterHoldsItsFields : Obligations.StatusRegisterHoldsItsFields := by
  intro s
  obtain ⟨hlc, hmode, hdir, hphase, hseen, herr, hzero⟩ := statusWord_fields s
  rw [hlc, hmode, hdir, hphase, hseen, herr, hzero]
  refine ⟨?_, ?_, ?_, s.phaseBit_iff, rfl, ?_, rfl⟩
  · cases s.lc <;> rfl
  · rcases s.lc with _ | ⟨_ | _ | _, _⟩ | _ <;> rfl
  · rcases s.lc with _ | ⟨_, _ | _ | _⟩ | _ <;> rfl
  · rcases s.lastErr with _ | _ | _ | _ | _ | _ <;> rfl

end Sys2Proof.Machine

/-! PROOFS. Silence (R244): on ticks 0 to 43 every encoder and every decoder takes one trajectory of the bands, that of
the low code 58 and the high code 3, so the octets follow from the codes along it. -/

namespace Sys2Proof.Machine

/-! ## The encoder -/

/-- The low band after `n` ticks of the code 58, whose core code is 14 (R156, R157). -/
def silentLow (n : Nat) : Band := (lowTick 14)^[n] (Band.streamStart 32)

/-- The high band after `n` ticks of the code 3 (R185, R186). -/
def silentHigh (n : Nat) : Band := (highTick 3)^[n] (Band.streamStart 8)

/-- A DSP state whose bands are those of `n` silent ticks, with both filters as OPEN left them. -/
def silentDsp (n : Nat) : Dsp := { Dsp.streamStart with low := silentLow n, high := silentHigh n }

theorem silentLow_succ (n : Nat) : silentLow (n + 1) = lowTick 14 (silentLow n) :=
  Function.iterate_succ_apply' _ _ _

theorem silentHigh_succ (n : Nat) : silentHigh (n + 1) = highTick 3 (silentHigh n) :=
  Function.iterate_succ_apply' _ _ _

/-- The low band codes silence as 58 along its first 44 ticks. -/
theorem lowCode_silentLow : ∀ n < 44, lowCode 0 (silentLow n) = 58 := by decide +kernel

/-- On tick 44 the prediction is -1, and the code another one (R152, log entry 7). -/
theorem lowCode_silentLow_44 : lowCode 0 (silentLow 44) = 55 := by decide +kernel

theorem highCode_silentHigh : ∀ n < 45, highCode 0 (silentHigh n) = 3 := by decide +kernel

/-- A silent tick moves along the trajectory in every mode. -/
theorem encodeTick_silentDsp (md : Mode) {n : Nat} (hn : n < 44) :
    (encodeTick md (0, 0) (silentDsp n)).2 = silentDsp (n + 1) := by
  have hlow : lowTick (lowCode 0 (silentLow n) >>> 2) (silentLow n) = silentLow (n + 1) := by
    rw [lowCode_silentLow n hn]
    exact (silentLow_succ n).symm
  have hhigh : highTick (highCode 0 (silentHigh n)) (silentHigh n) = silentHigh (n + 1) := by
    rw [highCode_silentHigh n (by omega)]
    exact (silentHigh_succ n).symm
  simp only [encodeTick, lbEncode, hbEncode, silentDsp, hlow, hhigh]

/-- The octet of a silent tick packs the two codes along the trajectory (R232). -/
theorem encodeTick_silentDsp_octet (md : Mode) (n : Nat) :
    (encodeTick md (0, 0) (silentDsp n)).1 =
      pack (lowCode 0 (silentLow n) >>> (6 - md.width)) (highCode 0 (silentHigh n)) md := rfl

/-- The encoder after `n` ticks of the pair (0, 0). -/
theorem encode_silence (md : Mode) {n : Nat} (hn : n ≤ 44) :
    (Nat.rec Dsp.streamStart (fun _ d => (encodeTick md (0, 0) d).2) n : Dsp) = silentDsp n := by
  induction n with
  | zero => rfl
  | succ n ih => simp only [ih (by omega), encodeTick_silentDsp md (by omega : n < 44)]

/-! ## The decoder -/

/-- The samples of 45 ticks of one octet to a fresh decoder, in order. -/
def decodeSteady (md : Mode) (il ih : Nat) : List Int :=
  ((List.replicate 45 ()).foldl (fun (p : List Int × Dsp) _ =>
    (p.1 ++ [(decodeTick md il ih p.2).1.1, (decodeTick md il ih p.2).1.2], (decodeTick md il ih p.2).2))
    ([], Dsp.streamStart)).1

/-- The samples R244 gives Mode1 and Mode3 for ticks 0 to 43, and those of tick 44, of which the first is 0. -/
def silentSamples : List Int :=
  [0, -1, -1, 0, 0, -1, 0, 0, -1, -1, 0, 0, 1, 1, 0, 0, 1, 0, 0, 1, 1, 0, 1, 1] ++ List.replicate 64 1 ++ [0, 1]

theorem decodeSteady_mode1 : decodeSteady .mode1 58 3 = silentSamples := by decide +kernel

theorem decodeSteady_mode2 : decodeSteady .mode2 29 3 = List.replicate 88 0 ++ [-1, 0] := by decide +kernel

theorem decodeSteady_mode3 : decodeSteady .mode3 14 3 = silentSamples := by decide +kernel

/-- Settles O50: the octets from the codes along the trajectory, the samples by evaluation. -/
theorem silenceHoldsItsCodeForFortyFourTicks : Obligations.SilenceHoldsItsCodeForFortyFourTicks := by
  refine ⟨fun n hn => ?_, ?_, decodeSteady_mode1,
    decodeSteady_mode3.trans decodeSteady_mode1.symm, decodeSteady_mode2⟩
  · simp only [encode_silence _ hn.le, encodeTick_silentDsp_octet, lowCode_silentLow n hn,
      highCode_silentHigh n (by omega)]
    decide
  · simp only [encode_silence _ le_rfl, encodeTick_silentDsp_octet, lowCode_silentLow_44,
      highCode_silentHigh 44 (by decide)]
    decide

end Sys2Proof.Machine

/-! PROOFS. The command port (20_memory.md): every command word runs to a next state with one response, so a queue of
them is a run with one step and one response for each (R69, R86), and a rejection is `State.reject` (R67, R264). -/

namespace Sys2Proof.Machine

/-! ## Rejection -/

/-- An accepted command leaves no error in `LAST_ERR` (R237), so an error there is that of a rejection. -/
theorem eq_reject_of_exec_lastErr {i : Instr} {s t : State} {e : Error} (ht : exec i s = .next t)
    (he : t.lastErr = some e) : t = s.reject e := by
  obtain ⟨e', hx⟩ | ⟨m, md, -, -, -, hx⟩ | ⟨-, -, hx⟩ | ⟨-, hx⟩ | ⟨pcm, md, dir, r, d, -, -, -, -, hx⟩ |
    ⟨octet, md, dir, -, -, -, -, hx⟩ := exec_cases i s <;>
    (rw [hx] at ht; cases ht)
  · cases he
    rfl
  all_goals cases he

/-- The response to a rejection is the error code with nothing above it (R86, R261). -/
theorem respError_eq (e : Error) : respError e = (errCode (some e)).setWidth 64 := by
  cases e <;> rfl

/-- Settles O23: the state with the error is `s.reject e`, whose response is the code of `e` alone. -/
theorem rejectionIsAtomic : Obligations.RejectionIsAtomic := by
  intro i s t e ht he
  rw [← respError_eq]
  exact eq_reject_of_exec_lastErr ht he

/-! ## One command word -/

/-- Every command is taken to a next state (R260, R266). -/
theorem exec_next (i : Instr) (s : State) : ∃ t, exec i s = .next t := by
  obtain ⟨e, hx⟩ | ⟨m, md, -, -, -, hx⟩ | ⟨-, -, hx⟩ | ⟨-, hx⟩ | ⟨pcm, md, dir, r, d, -, -, -, -, hx⟩ |
    ⟨octet, md, dir, -, -, -, -, hx⟩ := exec_cases i s <;>
  exact ⟨_, hx⟩

/-- A command word, well formed or not, takes no further input and returns one response (R69, R86). -/
theorem runCommand_next (w : CommandWord) (s : State) : ∃ t r, runCommand w s = .next t ∧
    t.port.inputs = s.port.inputs ∧ t.port.responses = s.port.responses ++ [r] := by
  rw [runCommand]
  cases decode w with
  | none => exact ⟨_, _, rfl, State.reject_inputs _ s, State.reject_responses _ s⟩
  | some i =>
    obtain ⟨t, ht⟩ := exec_next i s
    obtain ⟨hin, r, hr⟩ := exec_port ht
    exact ⟨t, r, ht, hin, hr⟩

/-- With a command word at the head of the queue, a step runs it on the state without that word (R69). -/
theorem step_command {s : State} {w : CommandWord} {rest : List PortInput} (hin : s.port.inputs = .command w :: rest) :
    step s = runCommand w { s with port := { s.port with inputs := rest } } := by
  rw [step, State.takeInput_cons hin]

/-! ## A queue of command words -/

/-- A run begins with the first step. -/
theorem core_run_succ {s t : State} (ht : step s = .next t) (k : Nat) :
    Sys2Proof.core.run (k + 1) s = Sys2Proof.core.run k t := by
  have hstep : Sys2Proof.core.step s = .next t := ht
  simp only [Host.Core.run, hstep]

/-- Settles O11, by induction on the queue: the first step answers the first word, and the later ones are the run from
its next state. -/
theorem commandsCompleteInArrivalOrder : Obligations.CommandsCompleteInArrivalOrder := by
  intro ws
  induction ws with
  | nil => exact fun s hin => ⟨[], rfl, ⟨s, rfl, hin, (List.append_nil _).symm⟩, fun k w hk => by simp at hk⟩
  | cons w ws ih =>
    intro s hin
    obtain ⟨s₁, r, hrun, hin₁, hresp₁⟩ := runCommand_next w { s with port := { s.port with inputs := ws.map .command } }
    have hstep : step s = .next s₁ := (step_command hin).trans hrun
    obtain ⟨rs, hlen, ⟨t, ht, htin, htresp⟩, hsteps⟩ := ih s₁ hin₁
    have happend (l : List ResponseWord) : s₁.port.responses ++ l = s.port.responses ++ r :: l := by simp [hresp₁]
    refine ⟨r :: rs, congrArg (· + 1) hlen, ⟨t, (core_run_succ hstep _).trans ht, htin, htresp.trans (happend rs)⟩, ?_⟩
    rintro (_ | k) w' hk
    · cases hk
      exact ⟨s, s₁, r, rfl, rfl, (List.append_nil _).symm, hrun, hresp₁, core_run_succ hstep 0⟩
    · obtain ⟨u, v, r', hr', hu, huresp, hv, hvresp, hkv⟩ := hsteps k w' hk
      exact ⟨u, v, r', hr', (core_run_succ hstep k).trans hu, huresp.trans (happend _), hv, hvresp,
        (core_run_succ hstep (k + 1)).trans hkv⟩

end Sys2Proof.Machine

/-! PROOFS. The encoding (30_encoding.md): decode and encode are inverse to each other, the decoder is the table of R83,
and each assembler line has its word (R80 to R85, R98). -/

namespace Sys2Proof

/-! ## Decoding a word that was encoded -/

/-- Settles O1, by the round trip of each command in `Laws.RoundTrip`. -/
theorem decodeInvertsEncode : Obligations.DecodeInvertsEncode := by
  intro i hwf
  cases i with
  | openStream m => exact Laws.RoundTrip.openStream m hwf
  | enc pcm => exact Laws.RoundTrip.enc pcm hwf
  | dec octet => exact Laws.RoundTrip.dec octet hwf
  | close => exact Laws.RoundTrip.close hwf
  | status => exact Laws.RoundTrip.status hwf

/-! ## The rows of the decoder -/

/-- The decoder as the five rows of R83, each with its whole condition on the fields. -/
theorem decode_eq_rows (w : CommandWord) :
    decode w =
      if CommandWord.rsv w = 0 ∧ CommandWord.op w = 1 ∧ CommandWord.data w = 0 then
        some (.openStream (CommandWord.modeField w))
      else if CommandWord.rsv w = 0 ∧ CommandWord.modeField w = 0 ∧ CommandWord.op w = 2 then
        some (.enc (CommandWord.pcm w))
      else if CommandWord.rsv w = 0 ∧ CommandWord.modeField w = 0 ∧ CommandWord.op w = 3 ∧
          CommandWord.dataHigh w = 0 then
        some (.dec (CommandWord.octet w))
      else if CommandWord.rsv w = 0 ∧ CommandWord.modeField w = 0 ∧ CommandWord.op w = 4 ∧ CommandWord.data w = 0 then
        some .close
      else if CommandWord.rsv w = 0 ∧ CommandWord.modeField w = 0 ∧ CommandWord.op w = 5 ∧ CommandWord.data w = 0 then
        some .status
      else none := by
  unfold decode
  by_cases hrsv : CommandWord.rsv w = 0
  · by_cases hopen : CommandWord.op w = 1
    · simp [hrsv, hopen]
    · by_cases hmode : CommandWord.modeField w = 0
      · simp only [hrsv, hopen, hmode]
        split_ifs <;> simp_all
      · simp [hrsv, hopen, hmode]
  · simp [hrsv]

/-- `DATA` is its high byte and the octet (R80, R81). -/
theorem CommandWord.data_eq_bytes (w : CommandWord) :
    CommandWord.data w = CommandWord.dataHigh w * 256 + CommandWord.octet w := by
  rw [CommandWord.data_eq, CommandWord.dataHigh_eq, CommandWord.octet_eq]
  have hw := w.isLt
  omega

theorem CommandWord.modeField_le (w : CommandWord) : CommandWord.modeField w ≤ 3 := by
  rw [CommandWord.modeField_eq]; omega

theorem CommandWord.octet_le (w : CommandWord) : CommandWord.octet w ≤ 255 := by
  rw [CommandWord.octet_eq]; omega

/-- The octet as the low byte of a halfword is its own number (R81). -/
theorem toNat_zero_append_octet {octet : Nat} (h : octet ≤ 255) : (0#8 ++ BitVec.ofNat 8 octet).toNat = octet := by
  simp only [BitVec.toNat_append, BitVec.toNat_ofNat, Nat.zero_mod, Nat.zero_shiftLeft, Nat.zero_or]
  omega

/-- A DEC word's `DATA`, as the encoder puts it together: eight zero bits and the octet (R83). -/
theorem zero_append_octet {w : CommandWord} (h : CommandWord.dataHigh w = 0) :
    0#8 ++ BitVec.ofNat 8 (CommandWord.octet w) = BitVec.ofNat 16 (CommandWord.data w) := by
  apply BitVec.eq_of_toNat_eq
  have hoctet := w.octet_le
  rw [toNat_zero_append_octet hoctet, BitVec.toNat_ofNat, CommandWord.data_eq_bytes, h]
  omega

/-- Settles O2: in each row of the decoder the fields the command does not carry are fixed, so the word is that of its
fields (`commandWord_eta`). -/
theorem encodeInvertsDecode : Obligations.EncodeInvertsDecode := by
  intro w i hdec
  have hrows := hdec
  rw [decode_eq_rows] at hrows
  split_ifs at hrows with hopen henc hdecode hclose hstatus <;> cases hrows
  · obtain ⟨hrsv, hop, hdata⟩ := hopen
    refine ⟨decide_eq_true w.modeField_le, ?_⟩
    have heta := commandWord_eta hrsv
    rwa [hop, hdata] at heta
  · obtain ⟨hrsv, hmode, hop⟩ := henc
    refine ⟨decide_eq_true (Machine.fits16_of_decode_enc hdec), ?_⟩
    have heta := commandWord_eta hrsv
    rwa [hop, hmode, ← CommandWord.ofInt_pcm] at heta
  · obtain ⟨hrsv, hmode, hop, hhigh⟩ := hdecode
    refine ⟨decide_eq_true w.octet_le, ?_⟩
    have heta := commandWord_eta hrsv
    rwa [hop, hmode, ← zero_append_octet hhigh] at heta
  · obtain ⟨hrsv, hmode, hop, hdata⟩ := hclose
    have heta := commandWord_eta hrsv
    rw [hop, hmode, hdata] at heta
    exact ⟨rfl, heta⟩
  · obtain ⟨hrsv, hmode, hop, hdata⟩ := hstatus
    have heta := commandWord_eta hrsv
    rw [hop, hmode, hdata] at heta
    exact ⟨rfl, heta⟩

/-! ## The match and mask table -/

/-- A word is its five fields, `DATA` taken as two bytes (R80). -/
theorem CommandWord.ext_iff (v w : CommandWord) :
    v = w ↔ v.extractLsb' 6 10 = w.extractLsb' 6 10 ∧ v.extractLsb' 4 2 = w.extractLsb' 4 2 ∧
      v.extractLsb' 0 4 = w.extractLsb' 0 4 ∧ v.extractLsb' 16 8 = w.extractLsb' 16 8 ∧
      v.extractLsb' 24 8 = w.extractLsb' 24 8 := by
  refine ⟨by rintro rfl; simp, fun h => BitVec.eq_of_toNat_eq ?_⟩
  have hv := v.isLt
  have hw := w.isLt
  simp only [← BitVec.toNat_inj, BitVec.extractLsb'_toNat, Nat.shiftRight_eq_div_pow] at h
  omega

/-- A match under a mask is a match field by field (R83). -/
theorem CommandWord.and_eq_iff (w m v : CommandWord) :
    w &&& m = v ↔ w.extractLsb' 6 10 &&& m.extractLsb' 6 10 = v.extractLsb' 6 10 ∧
      w.extractLsb' 4 2 &&& m.extractLsb' 4 2 = v.extractLsb' 4 2 ∧
      w.extractLsb' 0 4 &&& m.extractLsb' 0 4 = v.extractLsb' 0 4 ∧
      w.extractLsb' 16 8 &&& m.extractLsb' 16 8 = v.extractLsb' 16 8 ∧
      w.extractLsb' 24 8 &&& m.extractLsb' 24 8 = v.extractLsb' 24 8 := by
  rw [CommandWord.ext_iff]
  simp only [BitVec.extractLsb'_and]

/-- A field the mask covers is compared whole. -/
theorem and_full_masks :
    (∀ x : BitVec 4, x &&& 15#4 = x) ∧ (∀ x : BitVec 2, x &&& 3#2 = x) ∧ (∀ x : BitVec 10, x &&& 1023#10 = x) ∧
      (∀ x : BitVec 8, x &&& 255#8 = x) :=
  ⟨fun _ => BitVec.and_allOnes, fun _ => BitVec.and_allOnes, fun _ => BitVec.and_allOnes, fun _ => BitVec.and_allOnes⟩

theorem CommandWord.op_eq_iff (w : CommandWord) {n : Nat} (hn : n < 16) :
    CommandWord.op w = n ↔ w.extractLsb' 0 4 = BitVec.ofNat 4 n := by
  rw [← BitVec.toNat_inj, BitVec.toNat_ofNat, Nat.mod_eq_of_lt hn, CommandWord.op]

theorem CommandWord.modeField_eq_zero_iff (w : CommandWord) : CommandWord.modeField w = 0 ↔ w.extractLsb' 4 2 = 0#2 :=
  BitVec.toNat_inj (y := 0#2)

theorem CommandWord.rsv_eq_zero_iff (w : CommandWord) : CommandWord.rsv w = 0 ↔ w.extractLsb' 6 10 = 0#10 :=
  BitVec.toNat_inj (y := 0#10)

theorem CommandWord.dataHigh_eq_zero_iff (w : CommandWord) : CommandWord.dataHigh w = 0 ↔ w.extractLsb' 24 8 = 0#8 :=
  BitVec.toNat_inj (y := 0#8)

theorem CommandWord.data_eq_zero_iff (w : CommandWord) :
    CommandWord.data w = 0 ↔ w.extractLsb' 16 8 = 0#8 ∧ w.extractLsb' 24 8 = 0#8 := by
  rw [CommandWord.data_eq_bytes]
  simp only [← BitVec.toNat_inj]
  rw [CommandWord.dataHigh, CommandWord.octet, BitVec.toNat_ofNat]
  omega

/-- The row of OPEN (R83). -/
theorem and_openMask_iff (w : CommandWord) :
    w &&& 0xFFFFFFCF#32 = 0x00000001#32 ↔
      CommandWord.rsv w = 0 ∧ CommandWord.op w = 1 ∧ CommandWord.data w = 0 := by
  rw [CommandWord.and_eq_iff, w.op_eq_iff (by decide), w.rsv_eq_zero_iff, w.data_eq_zero_iff]
  simp [and_full_masks]

/-- The row of ENC (R83). -/
theorem and_encMask_iff (w : CommandWord) :
    w &&& 0x0000FFFF#32 = 0x00000002#32 ↔
      CommandWord.rsv w = 0 ∧ CommandWord.modeField w = 0 ∧ CommandWord.op w = 2 := by
  rw [CommandWord.and_eq_iff, w.op_eq_iff (by decide), w.rsv_eq_zero_iff, w.modeField_eq_zero_iff]
  simp [and_full_masks]

/-- The row of DEC (R83). -/
theorem and_decMask_iff (w : CommandWord) :
    w &&& 0xFF00FFFF#32 = 0x00000003#32 ↔
      CommandWord.rsv w = 0 ∧ CommandWord.modeField w = 0 ∧ CommandWord.op w = 3 ∧ CommandWord.dataHigh w = 0 := by
  rw [CommandWord.and_eq_iff, w.op_eq_iff (by decide), w.rsv_eq_zero_iff, w.modeField_eq_zero_iff,
    w.dataHigh_eq_zero_iff]
  simp [and_full_masks]

/-- The rows of CLOSE and STATUS, whose words `v` hold an opcode and nothing else (R83). -/
theorem and_fullMask_iff (w : CommandWord) {v : CommandWord} (hrsv : CommandWord.rsv v = 0)
    (hmode : CommandWord.modeField v = 0) (hdata : CommandWord.data v = 0) :
    w &&& 0xFFFFFFFF#32 = v ↔
      CommandWord.rsv w = 0 ∧ CommandWord.modeField w = 0 ∧ CommandWord.op w = CommandWord.op v ∧
        CommandWord.data w = 0 := by
  rw [show w &&& 0xFFFFFFFF#32 = w from BitVec.and_allOnes]
  refine ⟨?_, fun ⟨hrsv', hmode', hop', hdata'⟩ => ?_⟩
  · rintro rfl
    exact ⟨hrsv, hmode, rfl, hdata⟩
  · rw [← commandWord_eta hrsv', ← commandWord_eta hrsv, hmode', hop', hdata', hmode, hdata]

/-- The operands of R81, read off the word by shifts and masks. -/
theorem CommandWord.operands_eq (w : CommandWord) :
    ((w >>> 4) &&& 3#32).toNat = CommandWord.modeField w ∧ (w >>> 16).setWidth 16 = w.extractLsb' 16 16 ∧
      ((w >>> 16) &&& 0xFF#32).toNat = CommandWord.octet w := by
  refine ⟨?_, rfl, ?_⟩
  · rw [CommandWord.modeField_eq, BitVec.toNat_and, BitVec.toNat_ushiftRight, Nat.shiftRight_eq_div_pow]
    exact Nat.and_two_pow_sub_one_eq_mod _ 2
  · rw [CommandWord.octet_eq, BitVec.toNat_and, BitVec.toNat_ushiftRight, Nat.shiftRight_eq_div_pow]
    exact Nat.and_two_pow_sub_one_eq_mod _ 8

/-- The match and mask pairs of R83. -/
def matchMaskRows : List (BitVec 32 × BitVec 32) :=
  [(0x00000001#32, 0xFFFFFFCF#32), (0x00000002#32, 0x0000FFFF#32), (0x00000003#32, 0xFF00FFFF#32),
    (0x00000004#32, 0xFFFFFFFF#32), (0x00000005#32, 0xFFFFFFFF#32)]

/-- Every mask covers `OP`, and each match has an opcode of its own (R82, R83). -/
theorem matchMaskRows_op :
    (∀ a ∈ matchMaskRows, a.2 &&& 0xF#32 = 0xF#32) ∧
      ∀ a ∈ matchMaskRows, ∀ b ∈ matchMaskRows, a.1 &&& 0xF#32 = b.1 &&& 0xF#32 → a = b := by
  simp [matchMaskRows]

/-- A word that meets a row has the row's opcode. -/
theorem op_of_matches {w : CommandWord} {a : BitVec 32 × BitVec 32} (ha : a ∈ matchMaskRows)
    (h : w &&& a.2 = a.1) : w &&& 0xF#32 = a.1 &&& 0xF#32 := by
  rw [← h, BitVec.and_assoc, matchMaskRows_op.1 a ha]

/-- Settles O3: the rows of the decoder are the masks of R83 field by field, rows differ in the opcode, and a word of
no row is rejected by `runCommand`. -/
theorem decodeIsTheMatchMaskTable : Obligations.DecodeIsTheMatchMaskTable := by
  refine ⟨fun w => ?_, fun w a ha b hb hwa hwb => ?_, fun s w rest hin hw => ?_⟩
  · obtain ⟨hmode, hpcm, hoctet⟩ := w.operands_eq
    have hclose := and_fullMask_iff w (v := 0x00000004#32) rfl rfl rfl
    have hstatus := and_fullMask_iff w (v := 0x00000005#32) rfl rfl rfl
    rw [decode_eq_rows, hmode, hpcm, hoctet]
    simp only [and_openMask_iff, and_encMask_iff, and_decMask_iff, hclose, hstatus]
    rfl
  · exact matchMaskRows_op.2 a ha b hb ((op_of_matches ha hwa).symm.trans (op_of_matches hb hwb))
  · rw [Machine.step_command hin, Machine.runCommand, hw]
    rfl

/-! ## The words of the assembler lines -/

/-- Settles O4: each word is decoded. -/
theorem specWordsDecodeToTheirLines : Obligations.SpecWordsDecodeToTheirLines := by
  unfold Obligations.SpecWordsDecodeToTheirLines
  decide

/-- A command word with `MODE` 0 is its opcode and its `DATA` shifted to bit 16 (R80). -/
theorem commandWord_eq_or (data : BitVec 16) (op : BitVec 4) :
    commandWord data 0#2 op = op.setWidth 32 ||| (data.setWidth 32 <<< 16) := by
  apply BitVec.eq_of_toNat_eq
  have hop := op.isLt
  have hdata := data.isLt
  rw [commandWord_toNat, BitVec.toNat_or, BitVec.toNat_shiftLeft, BitVec.toNat_setWidth_of_le (by decide),
    BitVec.toNat_setWidth_of_le (by decide), Nat.or_comm, Nat.mod_eq_of_lt (by rw [Nat.shiftLeft_eq]; omega),
    ← Nat.shiftLeft_add_eq_or_of_lt (by omega), Nat.shiftLeft_eq]
  simp

/-- The low halfword of a 32-bit integer is its 16-bit form. -/
theorem ofInt_and_lowHalf (v : Int) : BitVec.ofInt 32 v &&& 0xFFFF#32 = (BitVec.ofInt 16 v).setWidth 32 := by
  apply BitVec.eq_of_toNat_eq
  rw [BitVec.toNat_and, BitVec.toNat_setWidth_of_le (by decide), BitVec.toNat_ofInt, BitVec.toNat_ofInt]
  refine (Nat.and_two_pow_sub_one_eq_mod _ 16).trans ?_
  omega

/-- Settles O5: the words of ENC and DEC are `commandWord_eq_or` at the operand, those of OPEN are four. -/
theorem assemblerLinesGiveTheirWords : Obligations.AssemblerLinesGiveTheirWords := by
  refine ⟨fun m hm => ?_, fun v _ _ => ?_, fun o ho => ?_, rfl, rfl, fun _ => rfl⟩
  · interval_cases m <;> rfl
  · rw [ofInt_and_lowHalf]
    exact commandWord_eq_or (BitVec.ofInt 16 v) 2#4
  · have hdata : (0#8 ++ BitVec.ofNat 8 o).setWidth 32 = BitVec.ofNat 32 o := by
      apply BitVec.eq_of_toNat_eq
      rw [BitVec.toNat_setWidth_of_le (by decide), toNat_zero_append_octet ho, BitVec.toNat_ofNat]
      omega
    rw [← hdata]
    exact commandWord_eq_or _ 3#4

end Sys2Proof

/-! PROOFS. The packer and the codes (R93 to R97), what the mode changes (R242), runs of ENC commands (R231, R294), and
the response word (R86). -/

namespace Sys2Proof.Machine

/-! ## The packer -/

/-- PACK puts the high code above the `w` bits of the low one (R93, R232). -/
theorem pack_eq_add {il : Nat} {md : Mode} (h : il < 2 ^ md.width) (ih : Nat) :
    pack il ih md = il + 2 ^ md.width * ih := by
  rw [pack, Nat.or_comm, ← Nat.shiftLeft_add_eq_or_of_lt h, Nat.shiftLeft_eq, Nat.mul_comm, Nat.add_comm]

/-- A packed octet has no padding bit (R95, R232). -/
theorem pack_lt {il ih : Nat} {md : Mode} (hil : il < 2 ^ md.width) (hih : ih < 4) :
    pack il ih md < 4 * 2 ^ md.width := by
  rw [pack_eq_add hil]
  have hmul := Nat.mul_le_mul_left (2 ^ md.width) (Nat.le_of_lt_succ hih)
  omega

theorem two_pow_width_le (md : Mode) : 2 ^ md.width ≤ 64 := by cases md <;> decide

/-- UNPACK reads the fields of an octet by division (R95, R234). -/
theorem unpack_eq (octet : Nat) (md : Mode) :
    unpack octet md =
      { il := octet % 2 ^ md.width, ih := octet / 2 ^ md.width % 4, pad := octet / 2 ^ md.width / 4 } := by
  rw [unpack, Nat.and_two_pow_sub_one_eq_mod, Nat.shiftRight_eq_div_pow, Nat.shiftRight_add, Nat.shiftRight_eq_div_pow,
    Nat.shiftRight_eq_div_pow]
  rw [show octet / 2 ^ md.width &&& 3 = octet / 2 ^ md.width % 4 from Nat.and_two_pow_sub_one_eq_mod _ 2]

/-- Settles O40: the octet is `il + 2 ^ w * ih`, and UNPACK divides by `2 ^ w`. -/
theorem unpackInvertsPack : Obligations.UnpackInvertsPack := by
  intro md il ih hil hih
  have hlt := pack_lt hil hih
  have hwidth := two_pow_width_le md
  refine ⟨?_, hlt, by omega⟩
  have hquot : (il + 2 ^ md.width * ih) / 2 ^ md.width = ih := by
    rw [Nat.add_mul_div_left _ _ (by positivity), Nat.div_eq_of_lt hil, Nat.zero_add]
  rw [unpack_eq, pack_eq_add hil, hquot, Nat.add_mul_mod_self_left, Nat.mod_eq_of_lt hil, Nat.mod_eq_of_lt hih,
    Nat.div_eq_of_lt hih]

/-! ## The codes -/

/-- Every code of a negative difference (R131, R141). -/
theorem iln_codes : ∀ k < 31, 1 ≤ k → 4 ≤ tabNat iln k ∧ tabNat iln k ≤ 31 ∨ tabNat iln k = 62 ∨ tabNat iln k = 63 := by
  decide

/-- Settles O29: the sign chooses the table, and the class is inside it. -/
theorem quantlCodeRanges : Obligations.QuantlCodeRanges := by
  intro el det
  obtain ⟨hlo, hhi⟩ := quantlClass_range el det
  refine ⟨fun h => ?_, fun h => ?_⟩
  · rw [quantl, if_neg (not_lt.mpr h)]
    exact ilp_range _ (Nat.lt_succ_of_le hhi) hlo
  · rw [quantl, if_pos h]
    exact iln_codes _ (Nat.lt_succ_of_le hhi) hlo

theorem lowCode_lt (x : Int) (l : Band) : lowCode x l < 64 := Nat.lt_succ_of_le (quantl_range _ _).2

theorem highCode_lt (x : Int) (h : Band) : highCode x h < 4 := Nat.lt_succ_of_le (quanth_le _ _)

/-- The low code cut to the width of the mode fits that width (R96, R156). -/
theorem lowCode_cut_lt {il6 : Nat} (h : il6 < 64) (md : Mode) : il6 / 2 ^ (6 - md.width) < 2 ^ md.width := by
  cases md <;> simp only [Mode.width] <;> omega

/-- The octet of an encode tick: the low code cut to the mode's width, and the high code above it (R231, R232). -/
theorem encodeTick_octet (md : Mode) (pair : Int × Int) (d : Dsp) :
    (encodeTick md pair d).1 =
      lowCode pair.1 d.low / 2 ^ (6 - md.width) + 2 ^ md.width * highCode pair.2 d.high := by
  rw [← pack_eq_add (lowCode_cut_lt (lowCode_lt _ _) md), ← Nat.shiftRight_eq_div_pow]
  rfl

/-- The octet of an encode tick has no padding bit (R94, R231). -/
theorem encodeTick_octet_lt (md : Mode) (pair : Int × Int) (d : Dsp) :
    (encodeTick md pair d).1 < 4 * 2 ^ md.width := by
  rw [encodeTick_octet, ← pack_eq_add (lowCode_cut_lt (lowCode_lt _ _) md)]
  exact pack_lt (lowCode_cut_lt (lowCode_lt _ _) md) (highCode_lt _ _)

theorem encodeTick_octet_le (md : Mode) (pair : Int × Int) (d : Dsp) : (encodeTick md pair d).1 ≤ 255 := by
  have hlt := encodeTick_octet_lt md pair d
  have hwidth := two_pow_width_le md
  omega

/-- The DSP state after an encode tick is that of any other mode: the bands adapt on the 6-bit code (R156, R242). -/
theorem encodeTick_dsp_mode (m n : Mode) (pair : Int × Int) (d : Dsp) :
    (encodeTick m pair d).2 = (encodeTick n pair d).2 := rfl

/-- Settles O39: both encode streams take the same DSP step, and cut one 6-bit code; the decoders adapt on the core
code alone. -/
theorem modeChangesOnlyTheLowCode : Obligations.ModeChangesOnlyTheLowCode := by
  refine ⟨fun s t pcm m n ds dt hs hds ht hdt hdsp => ?_, fun m n i j l hcore => ?_⟩
  · cases hphase : s.dsp.analysis.phase with
    | false =>
      refine ⟨_, _, execEnc_none hs hds hphase pcm, execEnc_none ht hdt (hdsp ▸ hphase) pcm, ?_, nofun⟩
      simp only [State.accept_dsp, hdsp]
    | true =>
      refine ⟨_, _, execEnc_octet hs hds hphase pcm, execEnc_octet ht hdt (hdsp ▸ hphase) pcm, ?_, fun _ => ?_⟩
      · simp only [State.accept_dsp, ← hdsp, encodeTick_dsp_mode m n]
      · refine ⟨_, _, lowCode_lt (analysisOut (s.dsp.analysis.x.push pcm)).1 s.dsp.low,
          highCode_lt (analysisOut (s.dsp.analysis.x.push pcm)).2 s.dsp.high, ?_, ?_⟩
        · rw [State.accept_responses, respOctet_eq (encodeTick_octet_le _ _ _), encodeTick_octet]
        · rw [State.accept_responses, respOctet_eq (encodeTick_octet_le _ _ _), encodeTick_octet, hdsp]
  · simp only [lbDecode, Nat.shiftRight_eq_div_pow, hcore]

/-! ## A run of ENC commands -/

/-- A sample at the head of the queue is encoded on the state without it (R69, R231). -/
theorem step_enc {s : State} {pcm : Int} {rest : List PortInput} (hpcm : Fits16 pcm)
    (hin : s.port.inputs = .command (encode (.enc pcm)) :: rest) :
    step s = execEnc pcm { s with port := { s.port with inputs := rest } } :=
  stepRunsTheDecodedCommand s _ rest _ hin (decodeInvertsEncode (.enc pcm) (decide_eq_true hpcm))

section
variable {s : State} {md : Mode} {dir : Option Direction} {pcm : Int} {rest : List PortInput} (hpcm : Fits16 pcm)
  (hlc : s.lc = .streaming md dir) (hdir : dir ≠ some .decode)
  (hin : s.port.inputs = .command (encode (.enc pcm)) :: rest)
include hpcm hlc hdir hin

/-- A sample at phase 0 returns `NONE` (R231, R294). -/
theorem step_enc_none (hphase : s.dsp.analysis.phase = false) :
    ∃ t, step s = .next t ∧ t.lc = .streaming md (some .encode) ∧ t.dsp.analysis.phase = true ∧ t.port.inputs = rest ∧
      t.port.responses = s.port.responses ++ [0#64] :=
  ⟨_, (step_enc hpcm hin).trans
    (execEnc_none (s := { s with port := { s.port with inputs := rest } }) hlc hdir hphase pcm), rfl, rfl, rfl, rfl⟩

/-- A sample at phase 1 returns an octet without padding (R94, R231). -/
theorem step_enc_octet (hphase : s.dsp.analysis.phase = true) :
    ∃ (t : State) (o : Nat), step s = .next t ∧ o < 4 * 2 ^ md.width ∧ t.lc = .streaming md (some .encode) ∧
      t.dsp.analysis.phase = false ∧ t.port.inputs = rest ∧
      t.port.responses = s.port.responses ++ [(BitVec.ofNat 64 o <<< 16) ||| 0x10#64] := by
  have hstep := (step_enc hpcm hin).trans
    (execEnc_octet (s := { s with port := { s.port with inputs := rest } }) hlc hdir hphase pcm)
  exact ⟨_, _, hstep, encodeTick_octet_lt md _ _, rfl, rfl, rfl,
    congrArg (s.port.responses ++ [·]) (respOctet_eq (encodeTick_octet_le md _ _))⟩

end

/-- Settles O20, by induction on the pairs: each takes two steps and returns to phase 0. -/
theorem encodeStreamReturnsOneOctetPerPair : Obligations.EncodeStreamReturnsOneOctetPerPair := by
  intro ps
  induction ps with
  | nil => exact fun s md dir _ _ _ _ hin => ⟨s, [], rfl, hin, rfl, nofun, (List.append_nil _).symm⟩
  | cons p ps ih =>
    intro s md dir hfits hlc hdir hphase hin
    obtain ⟨⟨ha, hb⟩, hrest⟩ := List.forall_mem_cons.mp hfits
    obtain ⟨u, hu, hulc, huphase, huin, huresp⟩ := step_enc_none ha hlc hdir hin hphase
    obtain ⟨t, o, ht, ho, htlc, htphase, htin, htresp⟩ := step_enc_octet hb hulc nofun huin huphase
    obtain ⟨v, os, hv, hvin, hlen, hos, hvresp⟩ := ih t md _ hrest htlc nofun htphase htin
    refine ⟨v, o :: os, ?_, hvin, congrArg (· + 1) hlen, List.forall_mem_cons.mpr ⟨ho, hos⟩, ?_⟩
    · calc Sys2Proof.core.run (2 * ps.length + 1 + 1) s
        _ = Sys2Proof.core.run (2 * ps.length + 1) u := core_run_succ hu _
        _ = Sys2Proof.core.run (2 * ps.length) t := core_run_succ ht _
        _ = .next v := hv
    · rw [hvresp, htresp, huresp, List.append_assoc, List.append_assoc, List.flatMap_cons]
      rfl

/-! ## The response word -/

/-- Every field of a response word by its place (R86). -/
theorem responseWord_fields (data1 data0 : BitVec 16) (kind : BitVec 2) (err : BitVec 3) :
    (responseWord data1 data0 kind err).extractLsb' 0 3 = err ∧
      (responseWord data1 data0 kind err).getLsbD 3 = false ∧
      (responseWord data1 data0 kind err).extractLsb' 4 2 = kind ∧
      (responseWord data1 data0 kind err).extractLsb' 6 10 = 0#10 ∧
      (responseWord data1 data0 kind err).extractLsb' 16 16 = data0 ∧
      (responseWord data1 data0 kind err).extractLsb' 24 8 = data0.extractLsb' 8 8 ∧
      (responseWord data1 data0 kind err).extractLsb' 32 16 = data1 ∧
      (responseWord data1 data0 kind err).extractLsb' 48 16 = 0#16 := by
  have h₁ := err.isLt
  have h₂ := kind.isLt
  have h₃ := data0.isLt
  have h₄ := data1.isLt
  have hzeros : (0#1).toNat = 0 ∧ (0#10).toNat = 0 ∧ (0#16).toNat = 0 := ⟨rfl, rfl, rfl⟩
  have hhigh : (data0.extractLsb' 8 8).toNat = data0.toNat / 2 ^ 8 % 2 ^ 8 := by
    rw [BitVec.extractLsb'_toNat, Nat.shiftRight_eq_div_pow]
  have hfield {i n : Nat} {v : BitVec n} (h : (responseWord data1 data0 kind err).toNat / 2 ^ i % 2 ^ n = v.toNat) :
      (responseWord data1 data0 kind err).extractLsb' i n = v := by
    apply BitVec.eq_of_toNat_eq
    rw [BitVec.extractLsb'_toNat, Nat.shiftRight_eq_div_pow, h]
  rw [responseWord_toNat] at hfield
  have hzero : (responseWord data1 data0 kind err).extractLsb' 3 1 = 0#1 := hfield (by omega)
  have hbit : (responseWord data1 data0 kind err).getLsbD 3 = false := by
    simpa using congrArg (BitVec.getLsbD · 0) hzero
  refine ⟨hfield ?_, hbit, hfield ?_, hfield ?_, hfield ?_, hfield ?_, hfield ?_, hfield ?_⟩ <;> omega

/-- The layout of R86 for the response to a command that leaves `e` in `LAST_ERR`. -/
structure ResponseLayout (e : Option Error) (r : ResponseWord) : Prop where
  reserved : r.getLsbD 3 = false ∧ r.extractLsb' 6 10 = 0#10 ∧ r.extractLsb' 48 16 = 0#16
  err : r.extractLsb' 0 3 = errCode e
  rejection : e ≠ none → r.extractLsb' 4 2 = 0#2
  noData : r.extractLsb' 4 2 = 0#2 → r.extractLsb' 16 16 = 0#16
  octet : r.extractLsb' 4 2 = 1#2 → r.extractLsb' 24 8 = 0#8
  data1 : r.extractLsb' 4 2 ≠ 2#2 → r.extractLsb' 32 16 = 0#16

/-- A response word has the layout of R86 if its fields go with its kind. -/
theorem responseLayout_responseWord {e : Option Error} {data1 data0 : BitVec 16} {kind : BitVec 2}
    (hrej : e ≠ none → kind = 0#2) (hnone : kind = 0#2 → data0 = 0#16)
    (hoctet : kind = 1#2 → data0.extractLsb' 8 8 = 0#8) (hpair : kind ≠ 2#2 → data1 = 0#16) :
    ResponseLayout e (responseWord data1 data0 kind (errCode e)) := by
  obtain ⟨herr, hbit, hkind, hrsv, hdata0, hhigh, hdata1, htop⟩ := responseWord_fields data1 data0 kind (errCode e)
  constructor
  · exact ⟨hbit, hrsv, htop⟩
  · exact herr
  all_goals rw [hkind]
  · exact hrej
  · rwa [hdata0]
  · rwa [hhigh]
  · rwa [hdata1]

theorem responseLayout_respError (e : Error) : ResponseLayout (some e) (respError e) :=
  responseLayout_responseWord (e := some e) (fun _ => rfl) (fun _ => rfl) nofun (fun _ => rfl)

theorem responseLayout_respNone : ResponseLayout none respNone :=
  responseLayout_responseWord (e := none) (fun _ => rfl) (fun _ => rfl) nofun (fun _ => rfl)

theorem responseLayout_respOctet (octet : Nat) : ResponseLayout none (respOctet octet) :=
  responseLayout_responseWord (e := none) nofun nofun (fun _ => BitVec.extractLsb'_append_eq_left) (fun _ => rfl)

theorem responseLayout_respPcmPair (even odd : Int) : ResponseLayout none (respPcmPair even odd) :=
  responseLayout_responseWord (e := none) nofun nofun nofun (fun h => absurd rfl h)

theorem responseLayout_respStatus (v : StatusWord) : ResponseLayout none (respStatus v) :=
  responseLayout_responseWord (e := none) nofun nofun nofun (fun _ => rfl)

/-- The one response to a command has the layout of R86. -/
theorem exec_response {i : Instr} {s t : State} (ht : exec i s = .next t) :
    ∃ r, t.port.responses = s.port.responses ++ [r] ∧ ResponseLayout t.lastErr r := by
  obtain ⟨e, hx⟩ | ⟨m, md, -, -, -, hx⟩ | ⟨-, -, hx⟩ | ⟨-, hx⟩ | ⟨pcm, md, dir, r, d, -, -, -, hr, hx⟩ |
    ⟨octet, md, dir, -, -, -, -, hx⟩ := exec_cases i s <;>
    (rw [hx] at ht; cases ht)
  · exact ⟨_, rfl, responseLayout_respError e⟩
  · exact ⟨_, rfl, responseLayout_respNone⟩
  · exact ⟨_, rfl, responseLayout_respNone⟩
  · exact ⟨_, rfl, responseLayout_respStatus _⟩
  · obtain ⟨-, rfl, -⟩ | ⟨-, o, rfl, -⟩ := hr
    · exact ⟨_, rfl, responseLayout_respNone⟩
    · exact ⟨_, rfl, responseLayout_respOctet o⟩
  · exact ⟨_, rfl, responseLayout_respPcmPair _ _⟩

/-- A command word, malformed or not, takes no further input, and its one response has the layout of R86. -/
theorem runCommand_response {w : CommandWord} {s t : State} (ht : runCommand w s = .next t) :
    t.port.inputs = s.port.inputs ∧
      ∃ r, t.port.responses = s.port.responses ++ [r] ∧ ResponseLayout t.lastErr r := by
  rw [runCommand] at ht
  split at ht
  · exact ⟨(exec_port ht).1, exec_response ht⟩
  · cases ht
    exact ⟨rfl, _, rfl, responseLayout_respError _⟩

/-- Settles O24: the step runs the word (`step_command`), and `runCommand_response` gives the layout. -/
theorem everyCommandReturnsOneResponse : Obligations.EveryCommandReturnsOneResponse := by
  intro s t w rest hin ht
  obtain ⟨hinputs, r, hresp, ⟨hbit, hrsv, htop⟩, herr, hrej, hnone, hoctet, hdata1⟩ :=
    runCommand_response ((step_command hin).symm.trans ht)
  refine ⟨hinputs, r, hresp, hbit, hrsv, htop, herr.trans ?_, hrej, hnone, hoctet, hdata1⟩
  rcases t.lastErr with _ | _ | _ | _ | _ | _ <;> rfl

end Sys2Proof.Machine

/-! PROOFS. The arithmetic of 40_arith.md: every inner value of a rule fits in 32 bits (R116), every table index is inside
its table (R134), and the tables agree with each other (R133). -/

namespace Sys2Proof.Machine

/-! ## Inner values -/

theorem within_of_fits16 {v : Int} (h : Fits16 v) : Within 32768 v := ⟨h.1, h.2.trans (by decide)⟩

theorem within_of_fits15 {v : Int} (h : Fits15 v) : Within 16384 v := ⟨h.1, h.2.trans (by decide)⟩

/-- A product of two bounded values, with the bound worked out. -/
theorem abs_mul_le {x y m n b : Int} (hx : Within m x) (hy : Within n y) (hb : m * n = b) : |x * y| ≤ b :=
  hb ▸ abs_le.mpr (mul_within hx hy)

/-- A filter sum over the elements `k i` of a register and the coefficients `j i` is bounded by the largest element
times the sum of the coefficients' magnitudes (R116). -/
theorem filterSum_within {n N : Nat} {m : Int} {x : ShiftReg n} (hx : ∀ v ∈ x.taps, Within m v) {k j : Nat → Nat}
    (hk : ∀ i < N, k i < n) :
    Within (m * sumTo N (fun i => |tabInt qmfH (j i)|)) (sumTo N (fun i => x.get (k i) * tabInt qmfH (j i))) := by
  rw [← sumTo_mul_left]
  exact sumTo_within N fun i hi => mul_within (hx _ (x.get_mem (hk i hi))) (abs_le.mp le_rfl)

/-- The magnitudes of the even coefficients (R129). -/
theorem sumTo_abs_qmfH_even : sumTo 12 (fun i => |tabInt qmfH (2 * i)|) = 6482 := by decide

/-- The magnitudes of the odd coefficients (R129): the same sum, because `H` is symmetric. -/
theorem sumTo_abs_qmfH_odd : sumTo 12 (fun i => |tabInt qmfH (2 * i + 1)|) = 6482 := by decide

/-- The two sums of ANALYSIS_OUT (R211). -/
theorem analysisSums_within {x : ShiftReg 24} (hx : ∀ v ∈ x.taps, Fits16 v) :
    Within (32768 * 6482) (sumEven x) ∧ Within (32768 * 6482) (sumOdd x) := by
  have hx' : ∀ v ∈ x.taps, Within 32768 v := fun v hv => within_of_fits16 (hx v hv)
  exact ⟨sumTo_abs_qmfH_even ▸ filterSum_within hx' (fun i hi => by omega),
    sumTo_abs_qmfH_odd ▸ filterSum_within hx' (fun i hi => by omega)⟩

/-- The two sums of SYNTHESIS_OUT (R214). -/
theorem synthesisSums_within {x : ShiftReg 12} (hx : ∀ v ∈ x.taps, Fits15 v) :
    Within (16384 * 6482) (sumTo 12 (fun i => x.get i * tabInt qmfH (2 * i))) ∧
      Within (16384 * 6482) (sumTo 12 (fun i => x.get i * tabInt qmfH (2 * i + 1))) := by
  have hx' : ∀ v ∈ x.taps, Within 16384 v := fun v hv => within_of_fits15 (hx v hv)
  exact ⟨sumTo_abs_qmfH_even ▸ filterSum_within hx' (fun _ hi => hi),
    sumTo_abs_qmfH_odd ▸ filterSum_within hx' (fun _ hi => hi)⟩

/-- The decision levels of QUANTL before the step size scales them (R141). -/
theorem shl_q6_within (i : Nat) : Within 23352 (shl (tabInt q6 i) 3) := by
  obtain ⟨hlo, hhi⟩ := q6_within i
  rw [shl_def]
  constructor <;> omega

/-- Settles O43: each row of R116 is a product of two bounded factors, or a filter sum. -/
theorem innerValuesFitIn32Bits : Obligations.InnerValuesFitIn32Bits := by
  refine ⟨fun x hx => ?_, fun x hx => ?_, fun det i md hdet₀ hdet₁ => ?_, fun nb hnb₀ hnb₁ => ?_, fun a ha => ?_,
    fun a v ha => ?_⟩
  · obtain ⟨⟨he₁, he₂⟩, ⟨ho₁, ho₂⟩⟩ := analysisSums_within hx
    exact ⟨abs_le.mpr (by omega), abs_le.mpr (by omega)⟩
  · obtain ⟨heven, hodd⟩ := synthesisSums_within hx
    exact ⟨abs_le.mpr heven, abs_le.mpr hodd⟩
  · have hdet : Within 16384 det := ⟨by omega, hdet₁⟩
    exact ⟨abs_mul_le (shl_q6_within i) hdet rfl, abs_mul_le hdet (invqblTable_within .mode3 i) rfl,
      abs_mul_le hdet (invqblTable_within md i) rfl⟩
  · exact abs_mul_le (m := 22528) ⟨by omega, hnb₁⟩ (abs_le.mp le_rfl) rfl
  · have hleak : Within 32640 a2Leak := by unfold Within; decide
    exact ⟨abs_mul_le (within_of_fits16 ha) (abs_le.mp le_rfl) rfl, abs_mul_le (within_of_fits16 ha) hleak rfl⟩
  · exact abs_mul_le (within_of_fits16 ha) (within_of_fits16 (fits16_clamp16 _)) rfl

/-! ## Table indices -/

theorem lowBits_lt (v : Int) (n : Nat) : lowBits v n < 2 ^ n := by
  have hpos : (0 : Int) < ((2 ^ n : Nat) : Int) := by positivity
  have hlt := Int.emod_lt_of_pos v hpos
  have hnonneg := Int.emod_nonneg v hpos.ne'
  unfold lowBits
  omega

/-- The high-band magnitude class is 1 or 2 (R134, R181). -/
theorem quanthClass_range (eh det : Int) : 1 ≤ quanthClass eh det ∧ quanthClass eh det ≤ 2 := by
  unfold quanthClass
  split <;> decide

/-- INVQBL's table has one level for each code of the mode's width (R120 to R122, R143). -/
theorem length_invqblTable (md : Mode) : (invqblTable md).length = 2 ^ md.width := by cases md <;> rfl

/-- The low code of an octet fits the width of the mode (R95). -/
theorem unpack_il_lt (octet : Nat) (md : Mode) : (unpack octet md).il < 2 ^ md.width := by
  rw [unpack_eq]
  exact Nat.mod_lt _ (by positivity)

/-- The high code of an octet has 2 bits (R95). -/
theorem unpack_ih_lt (octet : Nat) (md : Mode) : (unpack octet md).ih < 4 := by
  rw [unpack_eq]
  exact Nat.mod_lt _ (by decide)

/-- The core code of a low code has 4 bits in every mode (R96, R157). -/
theorem coreCode_lt {il : Nat} {md : Mode} (h : il < 2 ^ md.width) : il / 2 ^ (md.width - 4) < 16 := by
  cases md <;> simp only [Mode.width] at h ⊢ <;> omega

/-- Settles O44: the codes are bounded by the quantizers and the unpacker, the classes by their searches. -/
theorem tableIndicesAreInRange : Obligations.TableIndicesAreInRange := by
  refine ⟨fun el det => ?_, fun octet md => ?_, fun i _ => Nat.lt_succ_of_le (rl42_le i), by decide, rfl,
    fun nb => lowBits_lt _ 5, rfl, rfl, rfl, rfl, rfl, rfl⟩
  · obtain ⟨hmil₁, hmil₂⟩ := quantlClass_range el det
    obtain ⟨hmih₁, hmih₂⟩ := quanthClass_range el det
    have hil : quantl el det < 64 := Nat.lt_succ_of_le (quantl_range el det).2
    have hih : quanth el det < 4 := Nat.lt_succ_of_le (quanth_le el det)
    have hcore : quantl el det / 4 < 16 := coreCode_lt (md := .mode1) hil
    exact ⟨hmil₁, hmil₂, hmih₁, hmih₂, hil, Nat.div_lt_of_lt_mul hil, hcore, hcore, hih, hih⟩
  · have hil := unpack_il_lt octet md
    have hcore := coreCode_lt hil
    have hih := unpack_ih_lt octet md
    exact ⟨length_invqblTable md ▸ hil, hcore, hcore, hih, hih⟩

/-! ## Relations between the tables -/

/-- The levels of QM6 are symmetric: the two codes of a class have opposite levels (R133 (c)). -/
theorem qm6_iln_eq_neg_qm6_ilp : ∀ m < 31, 1 ≤ m → tabInt qm6 (tabNat iln m) = -tabInt qm6 (tabNat ilp m) := by
  decide

/-- Each level of QM6 lies between the decision levels of its class (R133 (c)). -/
theorem qm6_ilp_between_levels : ∀ m < 30, 1 ≤ m →
    tabInt q6 (m - 1) * 8 ≤ tabInt qm6 (tabNat ilp m) ∧ tabInt qm6 (tabNat ilp m) < tabInt q6 m * 8 := by
  decide

/-- Cutting a code to 5 or 4 bits does not change the sign of its level (R133 (d)). -/
theorem qm5_qm4_sign_of_qm6 : ∀ c < 64, 4 ≤ c →
    0 ≤ tabInt qm5 (c / 2) * tabInt qm6 c ∧ 0 ≤ tabInt qm4 (c / 4) * tabInt qm6 c := by
  decide

/-- The map to WL grows with the magnitude of the level of QM4 (R133 (e)). -/
theorem rl42_lt_of_abs_qm4_lt : ∀ c < 16, ∀ d < 16, |tabInt qm4 c| < |tabInt qm4 d| → tabNat rl42 c < tabNat rl42 d := by
  decide

/-- Settles O45: the relations (a) to (g) of R133 in their order, each evaluated on the tables. -/
theorem tablesAgreeWithEachOther : Obligations.TablesAgreeWithEachOther := by
  have hqm5 : qm5.filter (fun v => 0 < v) = ((List.range 15).map (fun k => tabInt q6 (2 * k + 1) * 8)).reverse := by
    decide
  have hqm4 : qm4.filter (fun v => 0 < v) = ((List.range 7).map (fun k => tabInt q6 (4 * k + 4) * 8)).reverse := by
    decide
  have hwl : ∀ i < 7, tabInt wl i < tabInt wl (i + 1) := by decide
  exact ⟨rfl, hqm5, hqm4, qm6_ilp_between_levels, rfl, qm6_iln_eq_neg_qm6_ilp, qm5_qm4_sign_of_qm6,
    rl42_lt_of_abs_qm4_lt, rfl, rfl, hwl, rfl, rfl, rfl⟩

end Sys2Proof.Machine

/-! PROOFS. The blocks of the two bands in closed form (R140 to R155, R180 to R184), the band operations (R156, R157, R185,
R186), and the decoder that follows the encoder: band by band (R158), and core by core (R241). -/

namespace Sys2Proof.Machine

/-! ## The quantizer and the scale -/

theorem clamp16_eq (v : Int) : clamp16 v = max (-32768) (min 32767 v) := clamp_eq_max_min (by decide)

/-- Settles O27: the clamp of SUBTRA as a maximum and a minimum. -/
theorem predictionErrorSaturates : Obligations.PredictionErrorSaturates := fun _ _ => clamp16_eq _

/-- The magnitude class is the first of 1 to 29 whose level is above the magnitude, else 30 (R141). -/
theorem quantlClass_spec (el det : Int) :
    (∀ i, 1 ≤ i → i < quantlClass el det → quantlLevel det i ≤ magnitude el) ∧
      (quantlClass el det < 30 → magnitude el < quantlLevel det (quantlClass el det)) := by
  obtain ⟨j, -, -, hclass, habove, hbelow⟩ | ⟨hclass, hbelow⟩ := quantlSearch_spec (magnitude el) det 29 1
  · rw [quantlClass, hclass]
    exact ⟨hbelow, fun _ => habove⟩
  · rw [quantlClass, hclass]
    exact ⟨hbelow, fun h => absurd h (lt_irrefl 30)⟩

/-- Settles O28: the class is the one the search of QUANTL answers. -/
theorem quantlIsTheFirstLevelAbove : Obligations.QuantlIsTheFirstLevelAbove := by
  intro el det
  obtain ⟨hlo, hhi⟩ := quantlClass_range el det
  obtain ⟨hbelow, habove⟩ := quantlClass_spec el det
  exact ⟨quantlClass el det, hlo, hhi, hbelow, habove, rfl⟩

/-- Settles O32: the clamps of LOGSCL and LOGSCH as maxima and minima. -/
theorem scaleAccumulatorLeaksAndClamps : Obligations.ScaleAccumulatorLeaksAndClamps := fun _ _ _ =>
  ⟨clamp_eq_max_min (by decide), clamp_eq_max_min (by decide)⟩

/-- While `nb >> 11` is at most the base, the step size is a shift to the right (R145, R184). -/
theorem scale_of_lt {base : Nat} {nb : Int} (hnb : 0 ≤ nb) (hlt : nb < 2048 * (base + 1)) :
    scale base nb = 4 * (tabInt ilb ((nb / 64).toNat % 32) / 2 ^ (base - (nb / 2048).toNat)) := by
  have hquot : (nb / 64).toNat / 32 = (nb / 2048).toNat := by omega
  have hle : (nb / 2048).toNat ≤ base := by omega
  have hshift : ((base : Int) - ((nb / 2048).toNat : Int)).toNat = base - (nb / 2048).toNat := by omega
  rw [scale_eq_scaleAt base hnb]
  simp only [scaleAt, hquot, hshift]
  rw [if_pos (by omega), asr_def, shl_def, mul_comm]
  push_cast
  rfl

/-- Settles O33: below the largest `nb` the shift is to the right, and at it the step size is evaluated. -/
theorem stepSizeFollowsTheAccumulator : Obligations.StepSizeFollowsTheAccumulator := by
  refine ⟨fun nb hlo hhi => ⟨?_, scale_low hlo hhi⟩, fun nb hlo hhi => ⟨?_, scale_high hlo hhi⟩⟩
  · split
    next hmax => rw [hmax]; decide
    next hmax => exact scale_of_lt (base := 8) hlo (by omega)
  · split
    next hmax => rw [hmax]; decide
    next hmax => exact scale_of_lt (base := 10) hlo (by omega)

/-! ## The predictor -/

/-- UPPOL2 in closed form (R148). -/
theorem uppol2_eq (b : Band) :
    uppol2 b = max (-12288) (min 12288
      (clamp16 (if (b.p0 < 0 ↔ b.p1 < 0) then -(clamp16 (4 * b.a1)) else clamp16 (4 * b.a1)) / 128
        + (if (b.p0 < 0 ↔ b.p2 < 0) then 128 else -128) + (b.a2 * 32512) / 32768)) := by
  rw [mul_comm 4]
  simp only [← neg_eq_neg_iff]
  exact clamp_eq_max_min (by decide)

/-- UPPOL1 in closed form, for a new `a2` in its range (R149). -/
theorem uppol1_eq {apl2 : Int} (h : Within 12288 apl2) (b : Band) :
    uppol1 apl2 b = max (-(15360 - apl2)) (min (15360 - apl2)
      (clamp16 ((if (b.p0 < 0 ↔ b.p1 < 0) then 192 else -192) + (b.a1 * 32640) / 32768))) := by
  obtain ⟨-, hhi⟩ := h
  simp only [← neg_eq_neg_iff]
  exact clamp_eq_max_min (by omega)

/-- UPZERO in closed form (R150). -/
theorem upzero_eq (dq di bi : Int) :
    upzero dq di bi =
      clamp16 ((if dq = 0 then 0 else if (di < 0 ↔ dq < 0) then 128 else -128) + (bi * 32640) / 32768) := by
  by_cases hdq : dq = 0
  · simp [upzero, hdq, asr_15, leak255]
  · simp [upzero, hdq, asr_15, leak255, neg_eq_neg_iff]

/-- A filter term in closed form (R152, R153). -/
theorem filterTerm_eq (c v : Int) : filterTerm c v = (c * clamp16 (2 * v)) / 32768 := by
  rw [two_mul]
  rfl

/-- Settles O34: the fields of ADAPT one by one, each block in its closed form. -/
theorem adaptGivesEveryField : Obligations.AdaptGivesEveryField := by
  intro dq b
  simp only [← clamp16_eq, ← filterTerm_eq, ← upzero_eq]
  refine ⟨adapt_det dq b, adapt_nb dq b, ⟨rfl, rfl, rfl, rfl, rfl, rfl, rfl⟩, ⟨rfl, rfl, rfl⟩, ⟨rfl, rfl, rfl⟩,
    (adapt_a2 dq b).trans (uppol2_eq _), ?_, ⟨rfl, rfl, rfl, rfl, rfl, rfl⟩, adapt_sp dq b, ?_, adapt_s dq b⟩
  · rw [adapt_a1, adapt_a2]
    exact uppol1_eq (uppol2_within _) _
  · rw [adapt_sz, zero_add]

/-! ## The band operations -/

/-- Settles O36: a code shifted to the right is divided by a power of 2, and an output is clamped. -/
theorem bandOperationsOfOneTick : Obligations.BandOperationsOfOneTick := by
  intro x md il ih b
  have hcore : lowCode x b >>> 2 = lowCode x b / 4 := Nat.shiftRight_eq_div_pow _ 2
  refine ⟨Nat.shiftRight_eq_div_pow _ _, ?_, clamp16_eq _, ?_, rfl, rfl, clamp16_eq _, rfl⟩
  · rw [lbEncode, hcore]
    rfl
  · rw [lbDecode, Nat.shiftRight_eq_div_pow]
    rfl

theorem width_range (md : Mode) : 4 ≤ md.width ∧ md.width ≤ 6 := by cases md <;> decide

/-- LB_DECODE of the code of LB_ENCODE, truncated to its width, adapts the band as LB_ENCODE did: the 6-bit code loses 2
bits in all, whatever the widths (R157, R158). -/
theorem lbDecode_lbEncode_band {enc dec : Mode} (h : dec.width ≤ enc.width) (x : Int) (l : Band) :
    (lbDecode ((lbEncode x enc l).1 >>> (enc.width - dec.width)) dec l).2 = (lbEncode x enc l).2 := by
  have henc := (width_range enc).2
  have hdec := (width_range dec).1
  have hcut : 6 - enc.width + (enc.width - dec.width) + (dec.width - 4) = 2 := by omega
  simp only [lbEncode, lbDecode, ← Nat.shiftRight_add, hcut]

/-- Settles O37: equal bands are equal after one more tick, so they are after every run of samples. -/
theorem lowDecoderTracksTheEncoder : Obligations.LowDecoderTracksTheEncoder := by
  intro enc dec h xs l tick
  refine List.foldlRecOn (motive := fun p : Band × Band => p.2 = p.1) xs tick rfl fun p hp x _ => ?_
  simp only [tick, hp]
  exact lbDecode_lbEncode_band h x p.1

/-! ## An encode core and a decode core -/

/-- UNPACK gives back the two codes of an encode tick, with padding 0 (R232, R234). -/
theorem unpack_encodeTick (md : Mode) (pair : Int × Int) (d : Dsp) :
    unpack (encodeTick md pair d).1 md =
      { il := (lbEncode pair.1 md d.low).1, ih := (hbEncode pair.2 d.high).1, pad := 0 } := by
  have hil : (lbEncode pair.1 md d.low).1 < 2 ^ md.width := by
    rw [lbEncode, Nat.shiftRight_eq_div_pow]
    exact lowCode_cut_lt (lowCode_lt _ _) md
  exact (unpackInvertsPack md _ _ hil (highCode_lt _ _)).1

/-- The decode tick on the codes of an encode tick gives the bands the encode tick gave (R158, R186). -/
theorem decodeTick_encodeTick_bands (md : Mode) (pair : Int × Int) {d e : Dsp} (hlow : d.low = e.low)
    (hhigh : d.high = e.high) :
    (encodeTick md pair d).2.low = (decodeTick md (lbEncode pair.1 md d.low).1 (hbEncode pair.2 d.high).1 e).2.low ∧
    (encodeTick md pair d).2.high =
      (decodeTick md (lbEncode pair.1 md d.low).1 (hbEncode pair.2 d.high).1 e).2.high := by
  have htrack := lbDecode_lbEncode_band le_rfl (enc := md) (dec := md) pair.1 d.low
  rw [Nat.sub_self, Nat.shiftRight_zero] at htrack
  constructor
  · simp only [encodeTick, decodeTick, ← hlow, htrack]
  · simp only [encodeTick, decodeTick, ← hhigh, hbEncode, hbDecode]

/-- Settles O38: a first sample leaves the bands alone; the octet of a second one unpacks to the codes both cores adapt
on. -/
theorem coresStayInStepOnEveryOctet : Obligations.CoresStayInStepOnEveryOctet := by
  intro s t pcm md ds dt hs hds ht hdt hlow hhigh
  cases hphase : s.dsp.analysis.phase with
  | false => exact ⟨_, execEnc_none hs hds hphase pcm, rfl, fun _ => ⟨rfl, rfl, hlow, hhigh⟩, nofun⟩
  | true =>
    refine ⟨_, execEnc_octet hs hds hphase pcm, rfl, nofun, fun _ => ?_⟩
    have hunpack := unpack_encodeTick md (analysisOut (s.dsp.analysis.x.push pcm))
      { s.dsp with analysis := { x := s.dsp.analysis.x.push pcm, phase := false } }
    have hdec := execDec_ok ht hdt (congrArg Unpacked.pad hunpack)
    rw [hunpack] at hdec
    obtain ⟨hlow', hhigh'⟩ := decodeTick_encodeTick_bands md (analysisOut (s.dsp.analysis.x.push pcm))
      (d := { s.dsp with analysis := { x := s.dsp.analysis.x.push pcm, phase := false } }) hlow hhigh
    exact ⟨_, _, encodeTick_octet_le _ _ _, congrArg (s.port.responses ++ [·]) (respOctet_eq (encodeTick_octet_le _ _ _)),
      rfl, hdec, rfl, rfl, hlow', hhigh'⟩

end Sys2Proof.Machine

/-! PROOFS. The forward quantizer of the high band (R181): its threshold in closed form, and its code by the sign of the
difference and the side of the threshold the magnitude is on. -/

namespace Sys2Proof.Machine

theorem magnitude_of_nonneg {e : Int} (h : 0 ≤ e) : magnitude e = e := if_pos h

theorem magnitude_of_neg {e : Int} (h : ¬ 0 ≤ e) : magnitude e = -(e + 1) := if_neg h

/-- The threshold of QUANTH: `564 << 3` is 4512 (R181). -/
theorem quanthLevel_eq (det : Int) : quanthLevel det = (4512 * det) / 32768 := asr_15 (4512 * det)

/-- A non-negative difference is coded by IHP: 2 in the large class, 3 in the small one (R132, R181). -/
theorem quanth_of_nonneg {eh : Int} (h : 0 ≤ eh) (det : Int) :
    quanth eh det = if quanthLevel det ≤ eh then 2 else 3 := by
  rw [quanth, if_neg (not_lt.mpr h), quanthClass, magnitude_of_nonneg h]
  split <;> rfl

/-- A negative difference is coded by IHN: 0 in the large class, 1 in the small one (R132, R181). -/
theorem quanth_of_neg {eh : Int} (h : ¬ 0 ≤ eh) (det : Int) :
    quanth eh det = if quanthLevel det ≤ -(eh + 1) then 0 else 1 := by
  rw [quanth, if_pos (not_le.mp h), quanthClass, magnitude_of_neg h]
  split <;> rfl

/-- Settles O30: the sign of the difference chooses the table, and the threshold its entry. -/
theorem quanthComparesWithOneThreshold : Obligations.QuanthComparesWithOneThreshold := by
  intro eh det
  rw [← quanthLevel_eq]
  split
  case isTrue h => exact quanth_of_nonneg h det
  case isFalse h => exact quanth_of_neg h det

end Sys2Proof.Machine

/-! PROOFS. The two quadrature mirror filters in closed form (R210 to R214), and what ENC and DEC answer on an open stream
(R231, R233). -/

namespace Sys2Proof.Machine

/-! ## The analysis filter -/

/-- The outputs of ANALYSIS_OUT: each sum is shifted by 13, then clamped; the two lower clamps differ (R211, R212). -/
theorem analysisOut_eq (x : ShiftReg 24) :
    analysisOut x =
      (max (-16384) (min 16383 ((sumEven x + sumOdd x) / 8192)),
       max (-16383) (min 16383 ((sumEven x - sumOdd x) / 8192))) :=
  Prod.ext (clamp_eq_max_min (by decide)) (clamp_eq_max_min (by decide))

/-- A filter sum over a register full of `c` is `c` times the sum of its coefficients (R212). -/
theorem filterSum_const {n N : Nat} (c : Int) {k : Nat → Nat} (hk : ∀ i < N, k i < n) (f : Nat → Int) :
    sumTo N (fun i => (ShiftReg.const n c).get (k i) * f i) = c * sumTo N f := by
  rw [← sumTo_mul_left]
  exact sumTo_congr N fun i hi => by rw [ShiftReg.const_get c (hk i hi)]

/-- The even coefficients add up to 2^12 (R129). -/
theorem sumTo_qmfH_even : sumTo 12 (fun i => tabInt qmfH (2 * i)) = 4096 := by decide

/-- The odd coefficients add up to 2^12 (R129). -/
theorem sumTo_qmfH_odd : sumTo 12 (fun i => tabInt qmfH (2 * i + 1)) = 4096 := by decide

theorem sumEven_const (c : Int) : sumEven (ShiftReg.const 24 c) = c * 4096 :=
  sumTo_qmfH_even ▸ filterSum_const c (fun i hi => by omega) _

theorem sumOdd_const (c : Int) : sumOdd (ShiftReg.const 24 c) = c * 4096 :=
  sumTo_qmfH_odd ▸ filterSum_const c (fun i hi => by omega) _

/-- Settles O41: `analysisOut_eq`, and on a constant register the two sums are equal. -/
theorem analysisSplitsTheRegister : Obligations.AnalysisSplitsTheRegister := by
  refine ⟨fun x => ?_, fun c => ?_⟩
  · rw [← sumTo_eq_sum, ← sumTo_eq_sum]
    exact analysisOut_eq x
  · have hsum : (c * 4096 + c * 4096) / 8192 = c := by omega
    rw [analysisOut_eq, sumEven_const, sumOdd_const, hsum, sub_self]
    rfl

/-! ## The synthesis filter -/

theorem clamp14_eq (v : Int) : clamp14 v = max (-16384) (min 16383 v) := clamp_eq_max_min (by decide)

/-- The outputs of SYNTHESIS_OUT: each sum is shifted once by 12, then clamped (R214). -/
theorem synthesisOut_eq (y : Synthesis) :
    synthesisOut y =
      (max (-16384) (min 16383 (sumTo 12 (fun i => y.xd.get i * tabInt qmfH (2 * i)) / 4096)),
       max (-16384) (min 16383 (sumTo 12 (fun i => y.xs.get i * tabInt qmfH (2 * i + 1)) / 4096))) :=
  Prod.ext (clamp14_eq _) (clamp14_eq _)

/-- Settles O42: the registers are pushed (`ShiftReg.push`), and the outputs are those of `synthesisOut_eq`. -/
theorem synthesisJoinsThePair : Obligations.SynthesisJoinsThePair := by
  intro rl rh y
  refine ⟨(ShiftReg.push_get_zero _ _).trans (clamp14_eq _), (ShiftReg.push_get_zero _ _).trans (clamp14_eq _),
    fun k hk => ⟨ShiftReg.push_get_succ _ _ (by omega), ShiftReg.push_get_succ _ _ (by omega)⟩, ?_⟩
  rw [← sumTo_eq_sum, ← sumTo_eq_sum]
  exact synthesisOut_eq _

/-! ## The data commands -/

/-- Settles O16: the new register is the pushed one. -/
theorem encodeFirstSampleOfAPair : Obligations.EncodeFirstSampleOfAPair := by
  intro s pcm md dir hlc hdir hphase
  exact ⟨s.dsp.analysis.x.push pcm, ShiftReg.push_get_zero _ _,
    fun k hk => ShiftReg.push_get_succ _ _ (by omega), execEnc_none hlc hdir hphase pcm⟩

/-- The low code of LB_ENCODE fits the width of the mode (R93, R156). -/
theorem lbEncode_code_lt (x : Int) (md : Mode) (l : Band) : (lbEncode x md l).1 < 2 ^ md.width := by
  rw [lbEncode, Nat.shiftRight_eq_div_pow]
  exact lowCode_cut_lt (lowCode_lt x l) md

/-- The response of an encode tick carries the low code with the high code above it (R86, R231, R232). -/
theorem respOctet_encodeTick (md : Mode) (pair : Int × Int) (d : Dsp) :
    respOctet (encodeTick md pair d).1 =
      (BitVec.ofNat 64 ((lbEncode pair.1 md d.low).1 + 2 ^ md.width * (hbEncode pair.2 d.high).1) <<< 16) |||
        0x10#64 := by
  rw [respOctet_eq (encodeTick_octet_le md pair d), encodeTick, pack_eq_add (lbEncode_code_lt _ _ _)]

/-- Settles O17: the new register is the pushed one, and `respOctet_encodeTick` is the response. -/
theorem encodeSecondSampleOfAPair : Obligations.EncodeSecondSampleOfAPair := by
  intro s pcm md dir hlc hdir hphase
  refine ⟨s.dsp.analysis.x.push pcm, ShiftReg.push_get_zero _ _,
    fun k hk => ShiftReg.push_get_succ _ _ (by omega), (execEnc_octet hlc hdir hphase pcm).trans ?_⟩
  rw [respOctet_encodeTick]
  rfl

/-- An octet that fits the mode has no padding, and its high code needs no mask (R95, R234). -/
theorem unpack_of_lt {octet : Nat} {md : Mode} (h : octet < 4 * 2 ^ md.width) :
    unpack octet md = { il := octet % 2 ^ md.width, ih := octet / 2 ^ md.width, pad := 0 } := by
  have hhigh : octet / 2 ^ md.width < 4 := Nat.div_lt_of_lt_mul (by rwa [Nat.mul_comm])
  rw [unpack_eq, Nat.mod_eq_of_lt hhigh, Nat.div_eq_of_lt hhigh]

/-- Settles O18: the octet unpacks without padding, and `respPcmPair_eq` is the response. -/
theorem decodeReturnsTwoSamples : Obligations.DecodeReturnsTwoSamples := by
  intro s octet md dir hlc hdir hfits l h y
  have hunpack := unpack_of_lt hfits
  have hdec := execDec_ok hlc hdir (congrArg Unpacked.pad hunpack)
  rw [hunpack, respPcmPair_eq] at hdec
  exact hdec

end Sys2Proof.Machine

/-! PROOFS. The command semantics of 44_codec.md: CLOSE and STATUS in full (R235, R236), the completion of every command
without a cause of rejection (R237, R262), and the first tick of a stream (R231, R233). -/

namespace Sys2Proof.Machine

/-! ## CLOSE and STATUS -/

/-- Settles O13: the two answers of CLOSE, by whether a stream is open; what `State.dropDsp` leaves is the witness. -/
theorem closeEndsTheStream : Obligations.CloseEndsTheStream := by
  refine fun s => ⟨execClose_invalid, ?_⟩
  rintro ⟨md, dir, hlc⟩
  exact ⟨_, _, execClose_ok hlc⟩

/-- Settles O14: STATUS is `State.accept` with the response of `respStatus_eq`. -/
theorem statusReturnsTheRegister : Obligations.StatusReturnsTheRegister := by
  intro s
  rw [← respStatus_eq]
  rfl

/-! ## Accepted commands -/

/-- A command that leaves no error in `LAST_ERR` completed: it kept `ERR_SEEN` and the waiting inputs, and its one
response has `ERR = 0` (R86, R237). -/
theorem exec_completes {i : Instr} {s t : State} (ht : exec i s = .next t) (hok : t.lastErr = none) :
    ∃ u r, exec i s = .next u ∧ u.lastErr = none ∧ u.errSeen = s.errSeen ∧ u.port.inputs = s.port.inputs ∧
      u.port.responses = s.port.responses ++ [r] ∧ r.extractLsb' 0 3 = 0#3 := by
  obtain ⟨r, hresp, hlayout⟩ := exec_response ht
  have hseen : t.errSeen = s.errSeen := Bool.eq_iff_iff.mpr (by simpa [hok] using exec_errSeen_iff ht)
  have herr : r.extractLsb' 0 3 = 0#3 := by rw [hlayout.err, hok]; rfl
  exact ⟨t, r, ht, hok, hseen, (exec_port ht).1, hresp, herr⟩

/-- The MODE operands 1 to 3 select a mode (R84). -/
theorem exists_ofField {m : Nat} (h₁ : 1 ≤ m) (h₃ : m ≤ 3) : ∃ md, Mode.ofField m = some md := by
  interval_cases m <;> exact ⟨_, rfl⟩

/-- Settles O22: each command ends in `State.accept`, which clears `LAST_ERR`, so `exec_completes` applies. -/
theorem commandsWithoutACauseAreAccepted : Obligations.CommandsWithoutACauseAreAccepted := by
  intro s md dir
  refine ⟨fun m hs h₁ h₃ => ?_, fun pcm hlc hdir => ?_, fun octet hlc hdir hfits => ?_, fun hlc => ?_, ?_⟩
  · obtain ⟨md', hm⟩ := exists_ofField h₁ h₃
    exact exec_completes (i := .openStream m) (execOpen_ok hs hm) rfl
  · cases hphase : s.dsp.analysis.phase with
    | false => exact exec_completes (i := .enc pcm) (execEnc_none hlc hdir hphase pcm) rfl
    | true => exact exec_completes (i := .enc pcm) (execEnc_octet hlc hdir hphase pcm) rfl
  · have hpad : (unpack octet md).pad = 0 := congrArg Unpacked.pad (unpack_of_lt hfits)
    exact exec_completes (i := .dec octet) (execDec_ok hlc hdir hpad) rfl
  · exact exec_completes (i := .close) (execClose_ok hlc) rfl
  · exact exec_completes (i := .status) rfl rfl

/-! ## The first tick of a stream -/

/-- A register full of `c` stays as it is when `c` is pushed. -/
theorem ShiftReg.push_const (n : Nat) (c : Int) : (ShiftReg.const n c).push c = ShiftReg.const n c := by
  apply ShiftReg.ext_taps
  simp [ShiftReg.push, ShiftReg.const, ← List.replicate_succ, List.take_replicate]

/-- The analysis filter answers silence with silence (R211). -/
theorem analysisOut_silence : analysisOut (ShiftReg.const 24 0) = (0, 0) := by decide

/-- Two samples to a stream at phase 0 are one tick: `NONE`, then the octet of the register with both pushed. The octet
depends on the bands alone, so it is that of the DSP state before the pair (R231, R294). -/
theorem exec_enc_pair {s : State} {md : Mode} {dir : Option Direction} (hlc : s.lc = .streaming md dir)
    (hdir : dir ≠ some .decode) (hphase : s.dsp.analysis.phase = false) (a b : Int) :
    ∃ t u, exec (.enc a) s = .next t ∧ exec (.enc b) t = .next u ∧
      u.port.responses = s.port.responses ++
        [respNone, respOctet (encodeTick md (analysisOut ((s.dsp.analysis.x.push a).push b)) s.dsp).1] := by
  obtain ⟨t, ht, htlc, htdsp, htresp⟩ : ∃ t, exec (.enc a) s = .next t ∧ t.lc = .streaming md (some .encode) ∧
      t.dsp = { s.dsp with analysis := { x := s.dsp.analysis.x.push a, phase := true } } ∧
      t.port.responses = s.port.responses ++ [respNone] := ⟨_, execEnc_none hlc hdir hphase a, rfl, rfl, rfl⟩
  refine ⟨t, _, ht, execEnc_octet htlc nofun (congrArg (·.analysis.phase) htdsp) b, ?_⟩
  rw [State.accept_responses, htresp, htdsp, List.append_assoc]
  rfl

/-- The first tick of silence in Mode1: the low code 58 and the high code 3 (R231). -/
theorem encodeTick_mode1_streamStart : (encodeTick .mode1 (0, 0) Dsp.streamStart).1 = 0xFA := by decide

/-- The first tick of a Mode1 decoder on the octet of silence (R233). -/
theorem decodeTick_mode1_streamStart :
    (decodeTick .mode1 (unpack 0xFA .mode1).il (unpack 0xFA .mode1).ih Dsp.streamStart).1 = (0, -1) := by decide

/-- Settles O49: two samples of 0 leave the fresh register as it is, so they are one tick of the pair (0, 0). -/
theorem firstTicksOfAModeOneStream : Obligations.FirstTicksOfAModeOneStream := by
  intro s hlc hdsp
  refine ⟨?_, _, execDec_ok (octet := 0xFA) hlc nofun (by decide), ?_⟩
  · obtain ⟨t, u, ht, hu, hresp⟩ := exec_enc_pair hlc nofun (congrArg (·.analysis.phase) hdsp) 0 0
    have hregister : (s.dsp.analysis.x.push 0).push 0 = ShiftReg.const 24 0 := by
      rw [hdsp, Dsp.streamStart, ShiftReg.push_const, ShiftReg.push_const]
    rw [hregister, analysisOut_silence, hdsp, encodeTick_mode1_streamStart] at hresp
    exact ⟨t, u, ht, hu, hresp⟩
  · rw [State.accept_responses, hdsp, decodeTick_mode1_streamStart]
    rfl

end Sys2Proof.Machine

/-! PROOFS. The exceptions of 60_exceptions.md: the words R262 makes illegal, the rejection of each row of the error
table in the order of R263, and that no input stops the core (R260, R266, R275). -/

namespace Sys2Proof

/-! ## Illegal words -/

/-- The first row of the error table, as the bits of the raw word (R83, R85, R262). `decode_eq_none_iff` ties it to the
decoder. -/
def CommandWord.Illegal (w : CommandWord) : Prop :=
  (w.extractLsb' 0 4).toNat = 0 ∨ 6 ≤ (w.extractLsb' 0 4).toNat ∨ w.extractLsb' 6 10 ≠ 0 ∨
    (w.extractLsb' 4 2 ≠ 0 ∧ (w.extractLsb' 0 4).toNat ≠ 1) ∨
    (w.extractLsb' 16 16 ≠ 0 ∧
      ((w.extractLsb' 0 4).toNat = 1 ∨ (w.extractLsb' 0 4).toNat = 4 ∨ (w.extractLsb' 0 4).toNat = 5)) ∨
    (w.extractLsb' 24 8 ≠ 0 ∧ (w.extractLsb' 0 4).toNat = 3)

/-- The first row in the decoder's own fields (R80). -/
theorem CommandWord.illegal_iff (w : CommandWord) :
    w.Illegal ↔ CommandWord.op w = 0 ∨ 6 ≤ CommandWord.op w ∨ CommandWord.rsv w ≠ 0 ∨
      (CommandWord.modeField w ≠ 0 ∧ CommandWord.op w ≠ 1) ∨
      (CommandWord.data w ≠ 0 ∧ (CommandWord.op w = 1 ∨ CommandWord.op w = 4 ∨ CommandWord.op w = 5)) ∨
      (CommandWord.dataHigh w ≠ 0 ∧ CommandWord.op w = 3) := by
  have hdata : CommandWord.data w = 0 ↔ w.extractLsb' 16 16 = 0#16 := BitVec.toNat_inj (y := 0#16)
  simp only [ne_eq, w.rsv_eq_zero_iff, w.modeField_eq_zero_iff, hdata, w.dataHigh_eq_zero_iff]
  rfl

/-- The decoder refuses exactly the words of the first row: they miss a condition of every row of R83. -/
theorem decode_eq_none_iff (w : CommandWord) : decode w = none ↔ w.Illegal := by
  rw [decode_eq_rows, w.illegal_iff]
  split_ifs <;> simp only [false_iff, true_iff] <;> omega

/-- The command of a legal word, by its opcode (R82); STATUS is left out, as no row of the error table rejects it. -/
theorem decode_of_not_illegal {w : CommandWord} (h : ¬ w.Illegal) :
    (CommandWord.op w = 1 → decode w = some (.openStream (CommandWord.modeField w))) ∧
      (CommandWord.op w = 2 → decode w = some (.enc (CommandWord.pcm w))) ∧
      (CommandWord.op w = 3 → decode w = some (.dec (CommandWord.octet w))) ∧
      (CommandWord.op w = 4 → decode w = some .close) := by
  rw [w.illegal_iff] at h
  rw [decode_eq_rows]
  refine ⟨fun hop => ?_, fun hop => ?_, fun hop => ?_, fun hop => ?_⟩
  · have hrow : CommandWord.rsv w = 0 ∧ CommandWord.data w = 0 := by omega
    simp [hop, hrow]
  · have hrow : CommandWord.rsv w = 0 ∧ CommandWord.modeField w = 0 := by omega
    simp [hop, hrow]
  · have hrow : CommandWord.rsv w = 0 ∧ CommandWord.modeField w = 0 ∧ CommandWord.dataHigh w = 0 := by omega
    simp [hop, hrow]
  · have hrow : CommandWord.rsv w = 0 ∧ CommandWord.modeField w = 0 ∧ CommandWord.data w = 0 := by omega
    simp [hop, hrow]

end Sys2Proof

namespace Sys2Proof.Machine

/-! ## The error table -/

/-- A bit of the octet above the two codes is padding (R95). -/
theorem unpack_pad_ne_zero {octet k : Nat} {md : Mode} (hk : md.width + 2 ≤ k) (hbit : octet.testBit k = true) :
    (unpack octet md).pad ≠ 0 := by
  have hpad : (unpack octet md).pad.testBit (k - (md.width + 2)) = true := by
    rw [unpack, Nat.testBit_shiftRight, Nat.add_sub_cancel' hk, hbit]
  intro hzero
  rw [hzero, Nat.zero_testBit] at hpad
  cases hpad

/-- Bit `k` of the octet operand is bit `16 + k` of the word (R81). -/
theorem testBit_octet (w : CommandWord) {k : Nat} (hk : k < 8) :
    (CommandWord.octet w).testBit k = w.getLsbD (16 + k) := by
  rw [CommandWord.octet, BitVec.testBit_toNat, BitVec.getLsbD_extractLsb', decide_eq_true hk, Bool.true_and]

/-- The last row of the error table: a padding bit of Mode2 or Mode3 that is set (R95, R262). -/
theorem unpack_octet_pad_ne_zero {w : CommandWord} {md : Mode}
    (h : md = .mode2 ∧ w.getLsbD 23 = true ∨ md = .mode3 ∧ (w.getLsbD 23 = true ∨ w.getLsbD 22 = true)) :
    (unpack (CommandWord.octet w) md).pad ≠ 0 := by
  rcases h with ⟨rfl, h⟩ | ⟨rfl, h | h⟩
  · exact unpack_pad_ne_zero (k := 7) (by decide) ((testBit_octet w (by decide)).trans h)
  · exact unpack_pad_ne_zero (k := 7) (by decide) ((testBit_octet w (by decide)).trans h)
  · exact unpack_pad_ne_zero (k := 6) (by decide) ((testBit_octet w (by decide)).trans h)

/-- Whether a stream is open is read off the lifecycle alone. -/
theorem not_streaming_of_lc_eq {s u : State} (hs : ¬ s.Streaming) (hu : u.lc = s.lc) : ¬ u.Streaming := by
  rwa [State.Streaming, hu]

/-- A command that the lifecycle of `s` makes reject, whatever the other fields, makes the step of R264 in `s`: the
error fields and one response change. -/
theorem step_rejects {s : State} {w : CommandWord} {rest : List PortInput} {i : Instr} {e : Error}
    (hin : s.port.inputs = .command w :: rest) (hdec : decode w = some i)
    (hexec : ∀ u : State, u.lc = s.lc → exec i u = .next (u.reject e)) :
    step s = .next
      { s with lastErr := some e, errSeen := true,
               port := { inputs := rest, responses := s.port.responses ++ [respError e] } } :=
  (stepRunsTheDecodedCommand s w rest i hin hdec).trans (hexec _ rfl)

/-- Settles O21: an illegal word is refused by the decoder, a legal one runs the command of its opcode, and each later
row is one of that command's rejections. -/
theorem rejectionsFollowTheErrorTable : Obligations.RejectionsFollowTheErrorTable := by
  intro s w rest hin op modeBits dataBits illegal rejected
  refine ⟨fun hillegal => ?_, fun hlegal hop hs => ?_, fun hlegal hop hs => ?_, fun md hlegal hop hlc => ?_,
    fun md hlegal hop hlc => ?_, fun hlegal hop hs hmode => ?_, fun md dir hlegal hop hlc hdir hpad => ?_⟩
  · obtain ⟨-, -, hmalformed⟩ := decodeIsTheMatchMaskTable
    exact hmalformed s w rest hin ((decode_eq_none_iff w).mpr hillegal)
  all_goals
    obtain ⟨hopen, henc, hdec, hclose⟩ := decode_of_not_illegal hlegal
  · obtain ⟨md, dir, hlc⟩ := hs
    exact step_rejects hin (hopen hop) fun _ hu => execOpen_streaming (hu.trans hlc) _
  · rcases hop with hop | hop | hop
    · exact step_rejects hin (henc hop) fun _ hu => execEnc_invalid (not_streaming_of_lc_eq hs hu) _
    · exact step_rejects hin (hdec hop) fun _ hu => execDec_invalid (not_streaming_of_lc_eq hs hu) _
    · exact step_rejects hin (hclose hop) fun _ hu => execClose_invalid (not_streaming_of_lc_eq hs hu)
  · exact step_rejects hin (henc hop) fun _ hu => execEnc_mismatch (hu.trans hlc) _
  · exact step_rejects hin (hdec hop) fun _ hu => execDec_mismatch (hu.trans hlc) _
  · have hfield : Mode.ofField (CommandWord.modeField w) = none := by
      rw [w.modeField_eq_zero_iff.mpr hmode]
      rfl
    exact step_rejects hin (hopen hop) fun _ hu => execOpen_invalid (not_streaming_of_lc_eq hs hu) hfield
  · exact step_rejects hin (hdec hop) fun _ hu => execDec_padding (hu.trans hlc) hdir (unpack_octet_pad_ne_zero hpad)

/-! ## Every step -/

/-- Settles O7: with no input to take, `step` answers its own state. -/
theorem idleCoreHoldsItsState : Obligations.IdleCoreHoldsItsState := by
  intro s hin
  rw [step, State.takeInput_nil hin]

/-- Settles O10: of the cases of `step_cases` three name the next state, and a command has one by `exec_next`. -/
theorem everyStepReachesANextState : Obligations.EveryStepReachesANextState := by
  intro s
  obtain ⟨-, hx⟩ | ⟨rest, -, hx⟩ | ⟨w, rest, -, -, hx⟩ | ⟨w, rest, i, -, -, hx⟩ := step_cases s
  · exact ⟨_, hx⟩
  · exact ⟨_, hx⟩
  · exact ⟨_, hx⟩
  · obtain ⟨t, ht⟩ := exec_next i { s with port := { s.port with inputs := rest } }
    exact ⟨t, hx.trans ht⟩

end Sys2Proof.Machine
